-- ==== Sys2Proof/Word.lean ====
section
/-! DEFINITION. The word types of the block: 00_scope.md R6 (a byte is 8 bits, every value is an unsigned bit
pattern), 10_state.md R14 table (wire opcodes of 16 bits), 30_encoding.md R37 (float patterns of 32 bits). -/

namespace Sys2Proof

/-- A byte; bit 7 is the most significant (00_scope.md R6). -/
abbrev Byte := BitVec 8

/-- A 16-bit quantity: a wire opcode or an argument (30_encoding.md R35, R36). -/
abbrev Half := BitVec 16

/-- A 24-bit RawWord read as one string of bits (30_encoding.md R34). -/
abbrev Bits24 := BitVec 24

/-- A 32-bit float pattern (30_encoding.md R37). -/
abbrev Pattern := BitVec 32

end Sys2Proof
end

