-- ==== Sys2Proof/Config.lean ====
section
/-! DEFINITION. What an implementation of the block fixes (00_scope.md R5) and the free values: contents the spec
calls unspecified (93_implementation_defined.md U2, U3). The hardwired constants of 10_state.md R14 are in
Machine/Hardwired.lean. -/

namespace Sys2Proof.Config

/-- `N_MAX`, the largest operand count a request can carry: the default of 00_scope.md R5
(92_eei_decisions.md D17 leaves it open; DESIGN CHOICE, log 9). -/
def nMax : Nat := 255

/-- `M_MAX`, the largest result count (00_scope.md R5). -/
def mMax : Nat := 5

/-- FREE VALUE. What the working register `crc` holds after a computation of `crc8` has delivered its value:
"any value" (93_implementation_defined.md U3; log 3). It has no body, so nothing can evaluate it. -/
opaque freeCrc : Nat → Byte

/-- FREE VALUE. The status byte of `RSP` while `phase = IDLE`: "any value" (93_implementation_defined.md U2; log 2). -/
opaque freeStatus : Nat → Byte

/-- FREE VALUE. The result bytes of `RSP` while `phase = IDLE`: "any value" (93_implementation_defined.md U2;
log 2). Only its first `mMax` bytes are ever used: `RSP.Q` holds 5 bytes (10_state.md R16 table). -/
opaque freeResult : Nat → List Byte

end Sys2Proof.Config
end

