-- ==== Sys2Proof/Syntax.lean ====
section
/-! DEFINITION. The operations of the block as syntax: one constructor per row of spec/opcode_table.json
(30_encoding.md R32), and the records the host hands over: requests (10_state.md R11) and RawWords
(30_encoding.md R34). -/

namespace Sys2Proof

/-- An operation together with its operand bytes `D[0], D[1], …`. The operand count `N` is the length of the list
(93_implementation_defined.md U6: a count that disagrees with the bytes cannot be expressed; log 10). A wrong
operand count is an ordinary operand: the operation then answers with its error (60_exceptions.md R90). -/
inductive Instr where
  | crc8 (d : List Byte)        -- 0x01, 41_crc8.md R53
  | validate (d : List Byte)    -- 0x02, 41_crc8.md R54
  | fdec (d : List Byte)        -- 0x10, 42_float_decoder.md R62
  | cmdStart (d : List Byte)    -- 0x20, 43_command_encoder.md R72
  | cmdStop (d : List Byte)     -- 0x21, R73
  | cmdRdy (d : List Byte)      -- 0x22, R74
  | cmdRead (d : List Byte)     -- 0x23, R75
  | cmdGetint (d : List Byte)   -- 0x24, R76
  | cmdSetint (d : List Byte)   -- 0x25, R77
  | cmdAsc (d : List Byte)      -- 0x26, R78
  | cmdReset (d : List Byte)    -- 0x27, R79
  | cmdFwver (d : List Byte)    -- 0x28, R80
  deriving DecidableEq, Repr

/-- A request `(OP, N, D)` (10_state.md R11); `N` is the length of `d`. -/
structure Request where
  op : Byte
  d  : List Byte
  deriving DecidableEq, Repr

/-- The operand count `N` of a request (10_state.md R11). -/
def Request.n (r : Request) : Nat := r.d.length

/-- A RawWord: high byte, low byte, CRC byte (30_encoding.md R34). -/
structure RawWord where
  hi  : Byte
  lo  : Byte
  crc : Byte
  deriving DecidableEq, Repr

/-- The operand bytes of an instruction. -/
def Instr.operands : Instr → List Byte
  | .crc8 d => d
  | .validate d => d
  | .fdec d => d
  | .cmdStart d => d
  | .cmdStop d => d
  | .cmdRdy d => d
  | .cmdRead d => d
  | .cmdGetint d => d
  | .cmdSetint d => d
  | .cmdAsc d => d
  | .cmdReset d => d
  | .cmdFwver d => d

end Sys2Proof
end

