-- ==== Sys2Proof/WellFormed.lean ====
section
/-! DEFINITION. What makes a request or an instruction well formed: at most `N_MAX` operand bytes
(10_state.md R11, 30_encoding.md R30). A wrong operand count for the operation is well formed: the block answers it. -/

namespace Sys2Proof

/-- `0 ≤ N ≤ N_MAX` (10_state.md R11). -/
def operandsFit (d : List Byte) : Bool := decide (d.length ≤ Config.nMax)

/-- A request the port can carry (10_state.md R11, 30_encoding.md R30). -/
def Request.wf (r : Request) : Bool := operandsFit r.d

/-- An instruction that some request spells. -/
def Instr.wf (i : Instr) : Bool := operandsFit i.operands

end Sys2Proof
end

