-- ==== Sys2Proof/Decode.lean ====
section
/-! DEFINITION. From bytes to a request (30_encoding.md R30), from a request to an operation (R32, R39), and back.
Decoding is total: what is no request, or names no operation, is rejected by name. -/

namespace Sys2Proof

/-- Why a byte sequence is rejected. The first three are no requests at all (30_encoding.md R30;
93_implementation_defined.md U6); the last is a request whose OP is unassigned (R39), which the block answers with
IllegalOperation. -/
inductive DecodeError where
  | noSelector
  | noCount
  | countMismatch (claimed supplied : Nat)
  | unassigned (op : Byte)
  deriving DecidableEq, Repr

/-- The request a byte sequence spells: byte 0 is OP, byte 1 is N, and exactly N bytes follow (30_encoding.md R30). -/
def parseRequest : List Byte → Except DecodeError Request
  | [] => .error .noSelector
  | [_] => .error .noCount
  | op :: n :: d =>
    if d.length = n.toNat then .ok ⟨op, d⟩ else .error (.countMismatch n.toNat d.length)

/-- The operation a request selects, matching all 8 bits of OP (30_encoding.md R32; unassigned values R39). -/
def decodeRequest (r : Request) : Except DecodeError Instr :=
  match r.op with
  | 0x01#8 => .ok (.crc8 r.d)
  | 0x02#8 => .ok (.validate r.d)
  | 0x10#8 => .ok (.fdec r.d)
  | 0x20#8 => .ok (.cmdStart r.d)
  | 0x21#8 => .ok (.cmdStop r.d)
  | 0x22#8 => .ok (.cmdRdy r.d)
  | 0x23#8 => .ok (.cmdRead r.d)
  | 0x24#8 => .ok (.cmdGetint r.d)
  | 0x25#8 => .ok (.cmdSetint r.d)
  | 0x26#8 => .ok (.cmdAsc r.d)
  | 0x27#8 => .ok (.cmdReset r.d)
  | 0x28#8 => .ok (.cmdFwver r.d)
  | op => .error (.unassigned op)

/-- The instruction a byte sequence spells. -/
def decode (bytes : List Byte) : Except DecodeError Instr :=
  match parseRequest bytes with
  | .ok r => decodeRequest r
  | .error e => .error e

/-- The selector value of an operation: column OP of 30_encoding.md R32. -/
def Instr.op : Instr → Byte
  | .crc8 _ => 0x01#8
  | .validate _ => 0x02#8
  | .fdec _ => 0x10#8
  | .cmdStart _ => 0x20#8
  | .cmdStop _ => 0x21#8
  | .cmdRdy _ => 0x22#8
  | .cmdRead _ => 0x23#8
  | .cmdGetint _ => 0x24#8
  | .cmdSetint _ => 0x25#8
  | .cmdAsc _ => 0x26#8
  | .cmdReset _ => 0x27#8
  | .cmdFwver _ => 0x28#8

/-- The request that asks for an instruction (10_state.md R11). -/
def Instr.request (i : Instr) : Request := ⟨i.op, i.operands⟩

/-- The byte sequence of a request (30_encoding.md R30): OP, N, then the operand bytes. -/
def Request.bytes (r : Request) : List Byte := r.op :: BitVec.ofNat 8 r.n :: r.d

/-- The byte sequence of a well-formed instruction. -/
def encode (i : Instr) : List Byte := i.request.bytes

/-- Byte `k` of an instruction whose bits are `w`, numbered as spec/opcode_table.json numbers them: byte 0 is OP,
bits 7..0; every bit from `nbits` on is 0. -/
def tableByte (nbits w k : Nat) : Byte := BitVec.ofNat 8 ((w % 2 ^ nbits) >>> (8 * k))

/-- The request whose bits are `w`: OP is byte 0, N byte 1, and N operand bytes follow. -/
def tableRequest (nbits w : Nat) : Request :=
  ⟨tableByte nbits w 0, (List.range (tableByte nbits w 1).toNat).map fun k => tableByte nbits w (k + 2)⟩

/-- The bytes of `tableRequest`, as the port would carry them. -/
def tableBytes (nbits w : Nat) : List Byte := (tableRequest nbits w).bytes

/-- What the decoder reads from an instruction whose bits are `w` (none where it rejects). -/
def decodeTableWord (nbits w : Nat) : Option Instr :=
  match decode (tableBytes nbits w) with
  | .ok i => some i
  | .error _ => none

end Sys2Proof
end

