-- ==== Sys2Proof/Machine/Operands.lean ====
section
/-! DEFINITION. Operand assembly and byte order, decided once: every multi-byte quantity is big-endian
(20_memory.md R21). RawWords (30_encoding.md R34), arguments (R36), float patterns (R37), words of an answer
(20_memory.md R22). -/

namespace Sys2Proof.Machine

/-- Bits 15:8 of a 16-bit quantity (00_scope.md R6). -/
def hiByte (v : Half) : Byte := v.extractLsb' 8 8

/-- Bits 7:0 of a 16-bit quantity (00_scope.md R6). -/
def loByte (v : Half) : Byte := v.extractLsb' 0 8

/-- `ARG = D[0] ∥ D[1]` (30_encoding.md R36). -/
def argOf (d0 d1 : Byte) : Half := d0 ++ d1

/-- The two operand bytes of an argument: `D[0] = ARG[15:8]`, `D[1] = ARG[7:0]` (30_encoding.md R36). -/
def argBytes (arg : Half) : List Byte := [hiByte arg, loByte arg]

/-- `F = D[0] ∥ D[1] ∥ D[2] ∥ D[3]` (30_encoding.md R37, 42_float_decoder.md R60). -/
def patternOf (p0 p1 p2 p3 : Byte) : Pattern := p0 ++ p1 ++ p2 ++ p3

/-- The four bytes of a pattern, most significant first (30_encoding.md R37). -/
def patternBytes (f : Pattern) : List Byte :=
  [f.extractLsb' 24 8, f.extractLsb' 16 8, f.extractLsb' 8 8, f.extractLsb' 0 8]

/-- The three bytes of a RawWord in wire order (30_encoding.md R34). -/
def wordBytes (w : RawWord) : List Byte := [w.hi, w.lo, w.crc]

/-- A RawWord as one string of 24 bits: HI in 23:16, LO in 15:8, CRC in 7:0 (30_encoding.md R34). -/
def wordBits (w : RawWord) : Bits24 := w.hi ++ w.lo ++ w.crc

/-- The RawWord with given 24 bits (30_encoding.md R34). -/
def wordOfBits (v : Bits24) : RawWord := ⟨v.extractLsb' 16 8, v.extractLsb' 8 8, v.extractLsb' 0 8⟩

/-- The 18-byte measurement answer cut into its six RawWords: word k is bytes 3k, 3k+1, 3k+2 (20_memory.md R22). -/
def answerWords (b : Vector Byte 18) : List RawWord :=
  [⟨b[0], b[1], b[2]⟩, ⟨b[3], b[4], b[5]⟩, ⟨b[6], b[7], b[8]⟩,
   ⟨b[9], b[10], b[11]⟩, ⟨b[12], b[13], b[14]⟩, ⟨b[15], b[16], b[17]⟩]

end Sys2Proof.Machine
end

