-- ==== Sys2Proof/Machine/Hardwired.lean ====
section
/-! DEFINITION. The hardwired constants of 10_state.md R13, R14 table (00_scope.md R4, 30_encoding.md R38), which no
operation can read or change. -/

namespace Sys2Proof.Machine

/-- CRC_POLY: x^8 + x^5 + x^4 + 1 without its leading bit (00_scope.md R4). -/
def crcPoly : Byte := 0x31#8

/-- CRC_INIT (00_scope.md R4). -/
def crcInit : Byte := 0xFF#8

/-- CRC_REFIN: no input reflection (00_scope.md R4). -/
def crcRefIn : Bool := false

/-- CRC_REFOUT: no output reflection (00_scope.md R4). -/
def crcRefOut : Bool := false

/-- CRC_XOROUT (00_scope.md R4). -/
def crcXorOut : Byte := 0x00#8

/-- "Start measurement" (30_encoding.md R38). -/
def wopStart : Half := 0x0010#16
/-- "Stop measurement" (30_encoding.md R38). -/
def wopStop : Half := 0x0104#16
/-- "Read data-ready flag" (30_encoding.md R38). -/
def wopReady : Half := 0x0202#16
/-- "Read measurement" (30_encoding.md R38). -/
def wopRead : Half := 0x0300#16
/-- "Read/write interval" (30_encoding.md R38). -/
def wopInterval : Half := 0x4600#16
/-- "Read ASC (auto self-calibration) status" (30_encoding.md R38). -/
def wopAsc : Half := 0x5306#16
/-- "Soft reset" (30_encoding.md R38). -/
def wopReset : Half := 0xD304#16
/-- "Read firmware version" (30_encoding.md R38). -/
def wopFwver : Half := 0xD100#16

/-- WIRE_OPCODE[0..7], in the order of 10_state.md R14's table. -/
def wireOpcodes : List Half :=
  [wopStart, wopStop, wopReady, wopRead, wopInterval, wopAsc, wopReset, wopFwver]

end Sys2Proof.Machine
end

