-- ==== Sys2Proof/Machine/CrcAlgorithm.lean ====
section
/-! DEFINITION. The function `crc8` of 41_crc8.md R51: the most-significant-bit-first shift register with the
parameters of 00_scope.md R4. It uses XOR, a shift by one and a test of bit 7 only (41_crc8.md R52). -/

namespace Sys2Proof.Machine

/-- One shift step of the working register (41_crc8.md R51): the bit leaving bit 7 decides whether 0x31 is XORed in. -/
def crcShift (c : Byte) : Byte :=
  if c.getLsbD 7 then (c <<< 1) ^^^ crcPoly else c <<< 1

/-- `n` shift steps. -/
def crcShifts : Nat → Byte → Byte
  | 0, c => c
  | n + 1, c => crcShifts n (crcShift c)

/-- A message byte as it meets the register: CRC_REFIN is false, so bit 7 meets bit 7 (00_scope.md R4). -/
def crcIn (b : Byte) : Byte := if crcRefIn then b.reverse else b

/-- The register's delivered value: CRC_REFOUT is false and CRC_XOROUT is 0x00 (00_scope.md R4). -/
def crcOut (c : Byte) : Byte := (if crcRefOut then c.reverse else c) ^^^ crcXorOut

/-- One message byte: XOR it in, then eight shift steps (41_crc8.md R51). -/
def crcAbsorb (c b : Byte) : Byte := crcShifts 8 (c ^^^ crcIn b)

/-- `crc8(b0, b1)` (41_crc8.md R51): load 0xFF, absorb b0, then b1. -/
def crc8 (b0 b1 : Byte) : Byte := crcOut (crcAbsorb (crcAbsorb crcInit b0) b1)

/-- A RawWord is valid iff its CRC byte is the checksum of its payload (30_encoding.md R34, 41_crc8.md R54). -/
def wordValid (w : RawWord) : Bool := crc8 w.hi w.lo == w.crc

end Sys2Proof.Machine
end

