-- ==== Sys2Proof/Machine/State.lean ====
section
/-! DEFINITION. The state of the machine as plain data: the block's own state (10_state.md R12, R13, R16), the host
agent's and the environment's pending inputs (R10, R12; log 6), and the model's counter for free values (log 5).
The spec gives the block nothing else: no registers, no program counter, no flags, no memory (R14, R15, R18, R19). -/

namespace Sys2Proof.Machine

/-- The handshake phase (10_state.md R12). -/
inductive Phase where
  | idle
  | done
  deriving DecidableEq, Repr

/-- A response `(ST, M, Q)` (10_state.md R11); `M` is the length of `q` (log 10). -/
structure Response where
  st : Byte
  q  : List Byte
  deriving DecidableEq, Repr

/-- The result count `M` of a response (10_state.md R11). -/
def Response.m (r : Response) : Nat := r.q.length

/-- A step some agent attempts: the host's `issue` and `take` (10_state.md R12) and the environment's reset event
(70_reset_and_hazards.md R100; 93_implementation_defined.md U7). -/
inductive Move where
  | issue
  | take
  | reset
  deriving DecidableEq, Repr

/-- Why a meaning stops. Both are the "stuck" of 93_implementation_defined.md U8: the step is not enabled. The
machine's own step never raises them: it holds the host instead (log 8). -/
inductive Fault where
  /-- Raised by every meaning, through `deliver`, when it is called in `phase = DONE`: `issue` is not enabled there
  (10_state.md R12, 70_reset_and_hazards.md R102). Safe: the model stops where the hardware waits. -/
  | issueNotEnabled
  /-- Raised by `takeResponse` in `phase = IDLE`: `take` is not enabled there (10_state.md R12). Safe: the model
  stops where the hardware waits. -/
  | takeNotEnabled
  deriving DecidableEq, Repr

/-- Why an item is refused. -/
inductive Refusal where
  /-- Raised by no arm of `exec`: every operation has its meaning. Safe. -/
  | notModelled (mnemonic : String)
  /-- Raised by `issueRequest` for a pending item of more than `N_MAX` operand bytes, which is no request and which
  the interface does not deliver to the block (30_encoding.md R30; 93_implementation_defined.md U6; log 9). Safe. -/
  | notARequest
  deriving DecidableEq, Repr

/-- The whole state. -/
structure State where
  /-- `phase` (10_state.md R12). -/
  phase : Phase
  /-- The response register `RSP` (10_state.md R12). -/
  rsp : Response
  /-- The CRC unit's working register (10_state.md R13). -/
  crc : Byte
  /-- The requests the host wants to issue, the next one first (log 6). -/
  pending : List Request
  /-- The steps attempted, the next one first (log 6). -/
  moves : List Move
  /-- The responses the host has observed by `take`, oldest first (10_state.md R12; log 6). -/
  taken : List Response
  /-- The model's own: how many free values have been drawn (log 5). -/
  fresh : Nat
  deriving DecidableEq, Repr

/-- The machine right after reset (10_state.md R16): `phase = IDLE`, `crc = 0xFF`. `RSP` is unspecified and not
observable; it holds `(0x00, 0, ε)` (DESIGN CHOICE, log 1). Nothing is pending (DESIGN CHOICE, log 6). -/
def State.reset : State where
  phase := .idle
  rsp := ⟨0x00#8, []⟩
  crc := 0xFF#8
  pending := []
  moves := []
  taken := []
  fresh := 0

end Sys2Proof.Machine
end

