-- ==== Sys2Proof/Machine/Flags.lean ====
section
/-! DEFINITION. What plays the part of flags (10_state.md R15): the status `ST` of a response (30_encoding.md R33,
60_exceptions.md R90) and VALIDATE's truth byte (41_crc8.md R54). The block keeps no flags. -/

namespace Sys2Proof.Machine

/-- The four statuses of 30_encoding.md R33. -/
inductive Status where
  | ok
  | invalidLength
  | malformedFloatEncoding
  | illegalOperation
  deriving DecidableEq, Repr

/-- The `ST` code of a status (30_encoding.md R33). -/
def statusCode : Status → Byte
  | .ok => 0x00#8
  | .invalidLength => 0x01#8
  | .malformedFloatEncoding => 0x02#8
  | .illegalOperation => 0x03#8

/-- VALIDATE's result byte: 0x01 for true, 0x00 for false (10_state.md R15, 41_crc8.md R54). -/
def truthByte (b : Bool) : Byte := if b then 0x01#8 else 0x00#8

/-- `ST <- OK` with the result bytes (30_encoding.md R31, R33). -/
def okResponse (q : List Byte) : Response := ⟨statusCode .ok, q⟩

/-- `raise E`: `ST <- code(E)`, `M <- 0`, no result bytes (60_exceptions.md R91). -/
def errorResponse (e : Status) : Response := ⟨statusCode e, []⟩

/-- The byte sequence of a response: ST, M, then the result bytes (30_encoding.md R31). -/
def responseBytes (r : Response) : List Byte := r.st :: BitVec.ofNat 8 r.m :: r.q

/-- The responses 30_encoding.md R31, R33 allow: with OK 1, 2, 4 or 5 result bytes, with an error code none. -/
def responseLegal (r : Response) : Bool :=
  if r.st = statusCode .ok then decide (r.m ∈ [1, 2, 4, 5])
  else (r.st == statusCode .invalidLength || r.st == statusCode .malformedFloatEncoding ||
    r.st == statusCode .illegalOperation) && decide (r.m = 0)

end Sys2Proof.Machine
end

