-- ==== Sys2Proof/Machine/Ops.lean ====
section
/-! DEFINITION. The shared operations: delivering a response through the handshake, raising an error (the block's
one kind of exception, 60_exceptions.md R91), taking a response, the reset event, and the use of the CRC unit's
working register. The block has no memory and no registers to operate on (20_memory.md R20, 10_state.md R14). -/

namespace Sys2Proof.Machine

/-- The outcomes of a meaning. -/
abbrev Result := Host.Outcome State Fault Refusal

/-- The state after a response is placed in `RSP`: `RSP <- r; phase <- DONE` (10_state.md R12). -/
def answered (r : Response) (s : State) : State := { s with phase := .done, rsp := r }

/-- The end of every operation (10_state.md R12): in `phase = IDLE` the response goes to `RSP` and the phase to
DONE. In `phase = DONE` no `issue` step is enabled: a named stop, which the machine's step never reaches (log 8). -/
def deliver (r : Response) (s : State) : Result :=
  match s.phase with
  | .idle => .next (answered r s)
  | .done => .fault .issueNotEnabled

/-- Taking an exception, the block's way (60_exceptions.md R91): the response is `(code, 0)`, the handshake proceeds
as for a success, and no other state changes. There is no vector, no saved state and no return (R94, R95). -/
def raise (e : Status) (s : State) : Result := deliver (errorResponse e) s

/-- What a computation of `crc8` leaves in the working register: a free value, since the register is meaningful
only between the load of 0xFF and the delivery (10_state.md R13; 93_implementation_defined.md U3; log 3). -/
def crcReleased (s : State) : State := { s with crc := Config.freeCrc s.fresh, fresh := s.fresh + 1 }

/-- Using the CRC unit: the checksum of two bytes and the state in which its register is released
(10_state.md R13, 41_crc8.md R51). What the register held before plays no part. -/
def computeCrc (b0 b1 : Byte) (s : State) : Byte × State := (crc8 b0 b1, crcReleased s)

/-- `RSP` while it is unspecified: at most 5 bytes of any value (93_implementation_defined.md U2; log 2). -/
def freeResponse (n : Nat) : Response := ⟨Config.freeStatus n, (Config.freeResult n).take Config.mMax⟩

/-- The state after a `take`: the host has observed `RSP`, `phase <- IDLE`, and `RSP` is unspecified
(10_state.md R12; 93_implementation_defined.md U2; log 2). -/
def responseTaken (s : State) : State :=
  { s with phase := .idle, rsp := freeResponse s.fresh, taken := s.taken ++ [s.rsp], fresh := s.fresh + 1 }

/-- `take` (10_state.md R12): enabled iff `phase = DONE`; else a named stop, which the machine's step never
reaches (log 8). It is all there is of a return: after it the block is as after any response (60_exceptions.md R95). -/
def takeResponse (s : State) : Result :=
  match s.phase with
  | .done => .next (responseTaken s)
  | .idle => .fault .takeNotEnabled

/-- The reset event (70_reset_and_hazards.md R100): `phase <- IDLE`, `crc <- 0xFF`, `RSP` unspecified. A response
not yet taken is lost; the host's own data is not the block's and stays (log 13). -/
def blockReset (s : State) : State :=
  { s with phase := .idle, rsp := freeResponse s.fresh, crc := crcInit, fresh := s.fresh + 1 }

/-- Going on with the result of an operation that answered a next state. -/
def andThen {α β : Type} (o : Host.Outcome α Fault Refusal) (k : α → Host.Outcome β Fault Refusal) :
    Host.Outcome β Fault Refusal :=
  match o with
  | .next a => k a
  | .fault f => .fault f
  | .refused r => .refused r

end Sys2Proof.Machine
end

