-- ==== Sys2Proof/Machine/CommandEncoder.lean ====
section
/-! DEFINITION. The command encoder: frame formats C2 and C5 (30_encoding.md R35, R41; 43_command_encoder.md R70,
R71) and the nine CMD_ operations (R72 to R80). A wrong operand count is InvalidLength (R82); argument values are
not checked (R81). -/

namespace Sys2Proof.Machine

/-- Format C2: the wire opcode, most significant byte first (30_encoding.md R35). -/
def frame2 (wop : Half) : List Byte := [hiByte wop, loByte wop]

/-- Format C5: the wire opcode, the two argument bytes, their checksum (30_encoding.md R35). -/
def frame5 (wop : Half) (d0 d1 crc : Byte) : List Byte := [hiByte wop, loByte wop, d0, d1, crc]

/-- A command without argument (43_command_encoder.md R70, R82): `N` must be 0. -/
def commandWithoutArgument (wop : Half) (d : List Byte) (s : State) : Result :=
  match d with
  | [] => deliver (okResponse (frame2 wop)) s
  | _ => raise .invalidLength s

/-- A command with argument (43_command_encoder.md R70, R71, R82): `N` must be 2; the checksum covers the two
argument bytes, high byte first. -/
def commandWithArgument (wop : Half) (d : List Byte) (s : State) : Result :=
  match d with
  | [d0, d1] =>
    let (c, t) := computeCrc d0 d1 s
    deliver (okResponse (frame5 wop d0 d1 c)) t
  | _ => raise .invalidLength s

/-- CMD_START (43_command_encoder.md R72). -/
def execCmdStart (d : List Byte) (s : State) : Result := commandWithArgument wopStart d s

/-- CMD_STOP (43_command_encoder.md R73). -/
def execCmdStop (d : List Byte) (s : State) : Result := commandWithoutArgument wopStop d s

/-- CMD_RDY (43_command_encoder.md R74). -/
def execCmdRdy (d : List Byte) (s : State) : Result := commandWithoutArgument wopReady d s

/-- CMD_READ (43_command_encoder.md R75). -/
def execCmdRead (d : List Byte) (s : State) : Result := commandWithoutArgument wopRead d s

/-- CMD_GETINT (43_command_encoder.md R76). -/
def execCmdGetint (d : List Byte) (s : State) : Result := commandWithoutArgument wopInterval d s

/-- CMD_SETINT (43_command_encoder.md R77). -/
def execCmdSetint (d : List Byte) (s : State) : Result := commandWithArgument wopInterval d s

/-- CMD_ASC (43_command_encoder.md R78). -/
def execCmdAsc (d : List Byte) (s : State) : Result := commandWithoutArgument wopAsc d s

/-- CMD_RESET (43_command_encoder.md R79): the frame asks the sensor to reset; the block itself is not reset
(70_reset_and_hazards.md R105). -/
def execCmdReset (d : List Byte) (s : State) : Result := commandWithoutArgument wopReset d s

/-- CMD_FWVER (43_command_encoder.md R80). -/
def execCmdFwver (d : List Byte) (s : State) : Result := commandWithoutArgument wopFwver d s

/-- The two frame formats (30_encoding.md R35). -/
inductive FrameFormat where
  | c2
  | c5
  deriving DecidableEq, Repr

/-- The wire opcode a frame begins with (30_encoding.md R35). -/
def frameOpcode : List Byte → Option Half
  | b0 :: b1 :: _ => some (b0 ++ b1)
  | _ => none

/-- How a reader of frames tells the format (30_encoding.md R41): 0x0010 is always C5, 0x4600 is C5 or C2 by the
number of bytes sent, the other six are always C2; nothing else is a frame of the encoder (R40). -/
def frameFormat (frame : List Byte) : Option FrameFormat :=
  match frameOpcode frame with
  | none => none
  | some wop =>
    if wop = wopStart then (if frame.length = 5 then some .c5 else none)
    else if wop = wopInterval then
      (if frame.length = 5 then some .c5 else if frame.length = 2 then some .c2 else none)
    else if wop ∈ wireOpcodes then (if frame.length = 2 then some .c2 else none)
    else none

end Sys2Proof.Machine
end

