-- ==== Sys2Proof/Machine/CrcUnit.lean ====
section
/-! DEFINITION. The CRC unit's operations: CRC8 (41_crc8.md R53) and VALIDATE (R54). -/

namespace Sys2Proof.Machine

/-- CRC8 (41_crc8.md R53): `N` must be 2, else InvalidLength; `Q[0] = crc8(D[0], D[1])`. -/
def execCrc8 (d : List Byte) (s : State) : Result :=
  match d with
  | [d0, d1] =>
    let (c, t) := computeCrc d0 d1 s
    deliver (okResponse [c]) t
  | _ => raise .invalidLength s

/-- VALIDATE (41_crc8.md R54): `N` must be 3, else InvalidLength; `Q[0]` says whether `crc8(D[0], D[1]) = D[2]`.
A word that fails its check is no error: the status is OK. -/
def execValidate (d : List Byte) (s : State) : Result :=
  match d with
  | [d0, d1, d2] =>
    let (c, t) := computeCrc d0 d1 s
    deliver (okResponse [truthByte (c == d2)]) t
  | _ => raise .invalidLength s

end Sys2Proof.Machine
end

