-- ==== Sys2Proof/Machine/FloatDecoder.lean ====
section
/-! DEFINITION. The float decoder's operation FDEC (42_float_decoder.md R62): a rearrangement of operand bytes, with
no arithmetic and no register (R60, R63). -/

namespace Sys2Proof.Machine

/-- FDEC (42_float_decoder.md R62): `N` at least 4, else MalformedFloatEncoding; `Q[0..3] = D[0..3]`. Bytes from
`D[4]` on are ignored. -/
def execFdec (d : List Byte) (s : State) : Result :=
  match d with
  | d0 :: d1 :: d2 :: d3 :: _ => deliver (okResponse [d0, d1, d2, d3]) s
  | _ => raise .malformedFloatEncoding s

end Sys2Proof.Machine
end

