-- ==== Sys2Proof/Machine/Dispatch.lean ====
section
/-! DEFINITION. One arm per operation (30_encoding.md R32, 60_exceptions.md R92). -/

namespace Sys2Proof.Machine

def exec (i : Instr) (s : State) : Host.Outcome State Fault Refusal :=
  match i with
  | .crc8 d => Sys2Proof.Machine.execCrc8 d s
  | .validate d => Sys2Proof.Machine.execValidate d s
  | .fdec d => Sys2Proof.Machine.execFdec d s
  | .cmdStart d => Sys2Proof.Machine.execCmdStart d s
  | .cmdStop d => Sys2Proof.Machine.execCmdStop d s
  | .cmdRdy d => Sys2Proof.Machine.execCmdRdy d s
  | .cmdRead d => Sys2Proof.Machine.execCmdRead d s
  | .cmdGetint d => Sys2Proof.Machine.execCmdGetint d s
  | .cmdSetint d => Sys2Proof.Machine.execCmdSetint d s
  | .cmdAsc d => Sys2Proof.Machine.execCmdAsc d s
  | .cmdReset d => Sys2Proof.Machine.execCmdReset d s
  | .cmdFwver d => Sys2Proof.Machine.execCmdFwver d s

end Sys2Proof.Machine
end

