-- ==== Sys2Proof/Machine/Handshake.lean ====
section
/-! DEFINITION. The steps of the machine (10_state.md R12; 70_reset_and_hazards.md R100, R102): the host issues, the
host takes, the environment resets; a step that is not enabled changes nothing. -/

namespace Sys2Proof.Machine

/-- `exec(OP, N, D)` on a request (60_exceptions.md R92): an unassigned OP answers IllegalOperation whatever `N` and
`D` (30_encoding.md R39), any other OP runs its operation. An item with more than `N_MAX` operand bytes is no
request (30_encoding.md R30; log 9). -/
def issueRequest (r : Request) (s : State) : Result :=
  if r.wf then
    match decodeRequest r with
    | .ok i => exec i s
    | .error _ => raise .illegalOperation s
  else .refused .notARequest

/-- The host attempts `issue` (10_state.md R12). In `phase = IDLE` its next request is executed; with none to issue
nothing happens. In `phase = DONE` it is held: nothing is overwritten and nothing is dropped
(70_reset_and_hazards.md R102; 93_implementation_defined.md U8). -/
def attemptIssue (s : State) : Result :=
  match s.phase, s.pending with
  | .idle, r :: rs => issueRequest r { s with pending := rs }
  | .idle, [] => .next s
  | .done, _ => .next s

/-- The host attempts `take` (10_state.md R12). In `phase = IDLE` it is not enabled and nothing happens. -/
def attemptTake (s : State) : Result :=
  match s.phase with
  | .done => takeResponse s
  | .idle => .next s

/-- One attempted move (10_state.md R12; the reset event of 70_reset_and_hazards.md R100 in any phase). -/
def attemptMove (m : Move) (s : State) : Result :=
  match m with
  | .issue => attemptIssue s
  | .take => attemptTake s
  | .reset => .next (blockReset s)

end Sys2Proof.Machine
end

