-- ==== Sys2Proof/Machine/Step.lean ====
section
/-! DEFINITION. One step of the machine: the next attempted move is taken off the list and attempted
(10_state.md R10, R12). With no move left nobody acts, and the block waits without losing state
(60_exceptions.md R99, 70_reset_and_hazards.md R100; log 7). -/

namespace Sys2Proof.Machine

/-- One step. -/
def step (s : State) : Host.Outcome State Fault Refusal :=
  match s.moves with
  | [] => .next s
  | m :: ms => attemptMove m { s with moves := ms }

/-- `s` with the request whose bits are `w` placed as the host's next request, the next move an `issue`, and the
block ready for it, so that the very next step runs it (log 12). -/
def State.withFetchWord (s : State) (nbits w : Nat) : State :=
  { s with phase := .idle, pending := tableRequest nbits w :: s.pending, moves := .issue :: s.moves }

end Sys2Proof.Machine
end

