-- ==== Sys2Proof/Machine/FloatValue.lean ====
section
/-! DEFINITION. What a float pattern denotes: `val(F)` of 42_float_decoder.md R61, a reading aid for the host. No
operation of the block evaluates it. The layout is the spec's own from general knowledge (log 15). -/

namespace Sys2Proof.Machine

/-- The value of a pattern, kept exact: a finite value is `(-1)^sign × mantissa × 2^exponent`. -/
inductive FloatVal where
  | nan (sign : Bool) (payload : BitVec 23)
  | infinity (sign : Bool)
  | finite (sign : Bool) (mantissa : Nat) (exponent : Int)
  deriving DecidableEq, Repr

/-- The sign bit, bit 31 (42_float_decoder.md R61). -/
def floatSign (f : Pattern) : Bool := f.getLsbD 31

/-- The biased exponent, bits 30:23 (42_float_decoder.md R61). -/
def floatExponent (f : Pattern) : BitVec 8 := f.extractLsb' 23 8

/-- The fraction, bits 22:0 (42_float_decoder.md R61). -/
def floatFraction (f : Pattern) : BitVec 23 := f.extractLsb' 0 23

/-- `val(F)` (42_float_decoder.md R61). -/
def floatVal (f : Pattern) : FloatVal :=
  if floatExponent f = 255#8 then
    (if floatFraction f = 0#23 then .infinity (floatSign f) else .nan (floatSign f) (floatFraction f))
  else if floatExponent f = 0#8 then .finite (floatSign f) (floatFraction f).toNat (-149)
  else .finite (floatSign f) (2 ^ 23 + (floatFraction f).toNat) ((floatExponent f).toNat - 150)

/-- The rational number a finite value is; none for infinities and NaNs. -/
def FloatVal.toRat : FloatVal → Option Rat
  | .nan _ _ => none
  | .infinity _ => none
  | .finite sign mantissa exponent =>
    some ((if sign then -1 else 1) * (mantissa : Rat) * (2 : Rat) ^ exponent)

end Sys2Proof.Machine
end

