-- ==== Sys2Proof/Machine/HostProcedures.lean ====
section
/-! DEFINITION. The host procedures of 30_encoding.md R43: CMD_INTERVAL, FDECW (42_float_decoder.md R66) and MDEC
(R67). Each is a sequence of requests, issued and taken one at a time, with host-side tests of VALIDATE's result
byte between them. None is an operation of the block. -/

namespace Sys2Proof.Machine

/-- A host at work: the requests it has issued so far, oldest first, and the machine. -/
structure Session where
  issued : List Request
  state  : State
  deriving DecidableEq, Repr

/-- What a host procedure reports (42_float_decoder.md R66, R67; 60_exceptions.md R98). -/
inductive HostReport (α : Type) where
  | delivered (a : α)
  | checksumError
  deriving DecidableEq, Repr

/-- The three patterns of a measurement answer, each as the four result bytes of an FDEC
(42_float_decoder.md R67). -/
structure Reading where
  co2         : List Byte
  temperature : List Byte
  humidity    : List Byte
  deriving DecidableEq, Repr

/-- One request issued and its response taken (10_state.md R12; 70_reset_and_hazards.md R102). -/
def transact (i : Instr) (x : Session) : Host.Outcome (Response × Session) Fault Refusal :=
  andThen (issueRequest i.request x.state) fun t =>
    andThen (takeResponse t) fun u =>
      .next (t.rsp, ⟨x.issued ++ [i.request], u⟩)

/-- VALIDATE for each word in turn, keeping whether the result byte was 0x01 (42_float_decoder.md R67). -/
def validateWords : List RawWord → Session → Host.Outcome (List Bool × Session) Fault Refusal
  | [], x => .next ([], x)
  | w :: ws, x =>
    andThen (transact (.validate (wordBytes w)) x) fun (r, y) =>
      andThen (validateWords ws y) fun (vs, z) =>
        .next ((r.q == [0x01#8]) :: vs, z)

/-- FDECW (42_float_decoder.md R66): both words validated, then one FDEC of the four payload bytes; else
ChecksumError and no FDEC. The pattern is delivered as FDEC's result bytes. -/
def fdecw (w0 w1 : RawWord) (x : Session) : Host.Outcome (HostReport (List Byte) × Session) Fault Refusal :=
  andThen (validateWords [w0, w1] x) fun (vs, y) =>
    if vs.all id then
      andThen (transact (.fdec [w0.hi, w0.lo, w1.hi, w1.lo]) y) fun (r, z) => .next (.delivered r.q, z)
    else .next (.checksumError, y)

/-- MDEC (42_float_decoder.md R67): all six words validated before any FDEC; then CO2 from bytes 0, 1, 3, 4,
temperature from bytes 6, 7, 9, 10, humidity from bytes 12, 13, 15, 16; else ChecksumError and nothing delivered. -/
def mdec (b : Vector Byte 18) (x : Session) : Host.Outcome (HostReport Reading × Session) Fault Refusal :=
  andThen (validateWords (answerWords b) x) fun (vs, y) =>
    if vs.all id then
      andThen (transact (.fdec [b[0], b[1], b[3], b[4]]) y) fun (rc, z1) =>
        andThen (transact (.fdec [b[6], b[7], b[9], b[10]]) z1) fun (rt, z2) =>
          andThen (transact (.fdec [b[12], b[13], b[15], b[16]]) z2) fun (rh, z3) =>
            .next (.delivered ⟨rc.q, rt.q, rh.q⟩, z3)
    else .next (.checksumError, y)

/-- CMD_INTERVAL (30_encoding.md R43): without operand CMD_GETINT, with one CMD_SETINT. -/
def cmdInterval : Option Half → Instr
  | none => .cmdGetint []
  | some arg => .cmdSetint (argBytes arg)

end Sys2Proof.Machine
end

