-- ==== Sys2Proof/Machine/Written.lean ====
section
/-! DEFINITION. The written notation of 30_encoding.md R42, as lists of words: a request is a mnemonic and operand
bytes of two hexadecimal digits; CMD_START and CMD_SETINT may take one number instead; a response is OK and its
result bytes, or the error's name. Log 16 says how an ambiguous operand is read. -/

namespace Sys2Proof.Machine

/-- The mnemonics of 30_encoding.md R32. -/
def mnemonicOf : Instr → String
  | .crc8 _ => "CRC8"
  | .validate _ => "VALIDATE"
  | .fdec _ => "FDEC"
  | .cmdStart _ => "CMD_START"
  | .cmdStop _ => "CMD_STOP"
  | .cmdRdy _ => "CMD_RDY"
  | .cmdRead _ => "CMD_READ"
  | .cmdGetint _ => "CMD_GETINT"
  | .cmdSetint _ => "CMD_SETINT"
  | .cmdAsc _ => "CMD_ASC"
  | .cmdReset _ => "CMD_RESET"
  | .cmdFwver _ => "CMD_FWVER"

/-- The hexadecimal digits, digit of value k at index k. -/
def hexDigits : List Char :=
  ['0', '1', '2', '3', '4', '5', '6', '7', '8', '9', 'A', 'B', 'C', 'D', 'E', 'F']

/-- A byte as two hexadecimal digits (30_encoding.md R42). -/
def writeByte (b : Byte) : String :=
  String.ofList [hexDigits.getD (b.toNat / 16) '0', hexDigits.getD (b.toNat % 16) '0']

/-- A request as words (30_encoding.md R42). -/
def writeRequest (i : Instr) : List String := mnemonicOf i :: i.operands.map writeByte

/-- A response as words (30_encoding.md R42); statuses that are never produced (R33) have no spelling. -/
def writeResponse (r : Response) : Option (List String) :=
  if r.st = statusCode .ok then some ("OK" :: r.q.map writeByte)
  else if r.st = statusCode .invalidLength then some ["InvalidLength"]
  else if r.st = statusCode .malformedFloatEncoding then some ["MalformedFloatEncoding"]
  else if r.st = statusCode .illegalOperation then some ["IllegalOperation"]
  else none

/-- VALIDATE's result byte written as a truth value (30_encoding.md R42). -/
def writeVerdict (b : Byte) : Option String :=
  if b = 0x01#8 then some "true" else if b = 0x00#8 then some "false" else none

/-- The value of a hexadecimal digit. -/
def digitValue (c : Char) : Option Nat := hexDigits.findIdx? (fun x => x == c)

/-- A word of exactly two hexadecimal digits read as a byte. -/
def readByte (t : String) : Option Byte :=
  match t.toList with
  | [a, b] =>
    match digitValue a, digitValue b with
    | some x, some y => some (BitVec.ofNat 8 (16 * x + y))
    | _, _ => none
  | _ => none

/-- Digits in a base, most significant first, onto an accumulator. -/
def readDigits (base : Nat) : List Char → Nat → Option Nat
  | [], acc => some acc
  | c :: cs, acc =>
    match digitValue c with
    | some v => if v < base then readDigits base cs (base * acc + v) else none
    | none => none

/-- One number, decimal or 0x hexadecimal, from 0 to 65535 (30_encoding.md R42). -/
def readNumber (t : String) : Option Half :=
  let value := match t.toList with
    | [] => none
    | ['0', 'x'] => none
    | '0' :: 'x' :: cs => readDigits 16 cs 0
    | cs => readDigits 10 cs 0
  match value with
  | some v => if v ≤ 65535 then some (BitVec.ofNat 16 v) else none
  | none => none

/-- Operand bytes, each of two hexadecimal digits. -/
def readBytes : List String → Option (List Byte)
  | [] => some []
  | t :: ts =>
    match readByte t, readBytes ts with
    | some b, some bs => some (b :: bs)
    | _, _ => none

/-- The operands of CMD_START and CMD_SETINT: bytes, or one number standing for its two bytes (30_encoding.md R36,
R42). A word of two hexadecimal digits is a byte (log 16). -/
def readArgument (ts : List String) : Option (List Byte) :=
  match readBytes ts, ts with
  | some d, _ => some d
  | none, [t] => (readNumber t).map argBytes
  | none, _ => none

/-- The request some words spell (30_encoding.md R42). -/
def readRequest : List String → Option Instr
  | [] => none
  | m :: ts =>
    if m = "CRC8" then (readBytes ts).map .crc8
    else if m = "VALIDATE" then (readBytes ts).map .validate
    else if m = "FDEC" then (readBytes ts).map .fdec
    else if m = "CMD_START" then (readArgument ts).map .cmdStart
    else if m = "CMD_STOP" then (readBytes ts).map .cmdStop
    else if m = "CMD_RDY" then (readBytes ts).map .cmdRdy
    else if m = "CMD_READ" then (readBytes ts).map .cmdRead
    else if m = "CMD_GETINT" then (readBytes ts).map .cmdGetint
    else if m = "CMD_SETINT" then (readArgument ts).map .cmdSetint
    else if m = "CMD_ASC" then (readBytes ts).map .cmdAsc
    else if m = "CMD_RESET" then (readBytes ts).map .cmdReset
    else if m = "CMD_FWVER" then (readBytes ts).map .cmdFwver
    else none

end Sys2Proof.Machine
end

