-- ==== Sys2Proof/Machine/Answer.lean ====
section
/-! DEFINITION. The function of 10_state.md R17 from requests to responses, written a second time and from another
place: from the rows of the operation map (30_encoding.md R32, R33, R39; 20_memory.md R23, R28), not from the
operations' pseudocode. It reads its argument and the hardwired constants and nothing else. -/

namespace Sys2Proof.Machine

/-- Column "N required" of 30_encoding.md R32. -/
inductive Need where
  | exactly (n : Nat)
  | atLeast (n : Nat)
  deriving DecidableEq, Repr

/-- Column "result" of 30_encoding.md R32. -/
inductive ResultKind where
  | checksum
  | verdict
  | pattern
  | opcode (wop : Half)
  | opcodeArgument (wop : Half)
  deriving DecidableEq, Repr

/-- A row of the operation map (30_encoding.md R32) with its error (60_exceptions.md R90). -/
structure OpRow where
  op     : Byte
  need   : Need
  error  : Status
  result : ResultKind
  deriving DecidableEq, Repr

/-- The operation map (30_encoding.md R32). -/
def opRows : List OpRow :=
  [⟨0x01#8, .exactly 2, .invalidLength, .checksum⟩,
   ⟨0x02#8, .exactly 3, .invalidLength, .verdict⟩,
   ⟨0x10#8, .atLeast 4, .malformedFloatEncoding, .pattern⟩,
   ⟨0x20#8, .exactly 2, .invalidLength, .opcodeArgument 0x0010#16⟩,
   ⟨0x21#8, .exactly 0, .invalidLength, .opcode 0x0104#16⟩,
   ⟨0x22#8, .exactly 0, .invalidLength, .opcode 0x0202#16⟩,
   ⟨0x23#8, .exactly 0, .invalidLength, .opcode 0x0300#16⟩,
   ⟨0x24#8, .exactly 0, .invalidLength, .opcode 0x4600#16⟩,
   ⟨0x25#8, .exactly 2, .invalidLength, .opcodeArgument 0x4600#16⟩,
   ⟨0x26#8, .exactly 0, .invalidLength, .opcode 0x5306#16⟩,
   ⟨0x27#8, .exactly 0, .invalidLength, .opcode 0xD304#16⟩,
   ⟨0x28#8, .exactly 0, .invalidLength, .opcode 0xD100#16⟩]

/-- Whether an operand count fits (60_exceptions.md R92, second test). -/
def needFits : Need → Nat → Bool
  | .exactly k, n => n == k
  | .atLeast k, n => decide (k ≤ n)

/-- The result bytes, from the operand bytes by index (30_encoding.md R32; 20_memory.md R28). -/
def resultBytes (k : ResultKind) (d : List Byte) : List Byte :=
  let d0 := d.getD 0 0#8
  let d1 := d.getD 1 0#8
  let d2 := d.getD 2 0#8
  let d3 := d.getD 3 0#8
  match k with
  | .checksum => [crc8 d0 d1]
  | .verdict => [if crc8 d0 d1 = d2 then 0x01#8 else 0x00#8]
  | .pattern => [d0, d1, d2, d3]
  | .opcode wop => [hiByte wop, loByte wop]
  | .opcodeArgument wop => [hiByte wop, loByte wop, d0, d1, crc8 d0 d1]

/-- The response to a request (10_state.md R17): first the selector, then the count, then the result
(60_exceptions.md R92). -/
def answer (r : Request) : Response :=
  match opRows.find? (fun row => row.op == r.op) with
  | none => ⟨0x03#8, []⟩
  | some row =>
    if needFits row.need r.n then ⟨0x00#8, resultBytes row.result r.d⟩ else ⟨statusCode row.error, []⟩

end Sys2Proof.Machine
end

