-- ==== Sys2Proof/Safety.lean ====
section
/-! DEFINITION. What counts as a safe run, and the invariants of the machine, in the terms claims use. -/

namespace Sys2Proof.Machine

/-- The invariant: `RSP` never holds more than 5 bytes (10_state.md R11, R16 table); in `phase = DONE` it holds a
response 30_encoding.md R31 and R33 allow, as does everything the host has taken; and everything pending is a
request the port can carry (10_state.md R11). -/
def State.Inv (s : State) : Prop :=
  s.rsp.m ≤ Config.mMax ∧
  (s.phase = .done → responseLegal s.rsp = true) ∧
  (∀ q ∈ s.taken, responseLegal q = true) ∧
  (∀ r ∈ s.pending, Request.wf r = true)

/-- Every response the host has taken, and the one it may take next, is the function of 10_state.md R17 of some
request. -/
def State.Explained (s : State) : Prop :=
  (s.phase = .done → ∃ r : Request, r.wf = true ∧ s.rsp = answer r) ∧
  (∀ q ∈ s.taken, ∃ r : Request, r.wf = true ∧ q = answer r)

/-- A run from `s` is safe when no number of steps ends in a fault or a refusal (70_reset_and_hazards.md R108: no
operation can fail to terminate). -/
def State.Safe (s : State) : Prop := ∀ k, ∃ t, Host.Core.run Sys2Proof.core k s = .next t

end Sys2Proof.Machine
end

