-- ==== Sys2Proof/Certificates/Slice0/Obligations.lean ====
section
/-! DEFINITION. The statements for the provers. In a next state written `{ s with … }` every field that is not named
is unchanged: that is the statement's frame. The working register `crc` and the counter `fresh` stand under an
existential wherever the content of `crc` after the step is a free value (log 3), and so does `RSP` after a take or
a reset (log 2): nothing is claimed of a free value. Where a next state leaves `crc` as it was, after an operation
that computes no checksum, after an error or after a take, that is the MODEL's reading (log 4, DEDUCED from R62, R70
and R91; 93_implementation_defined.md U3 calls the content open): each statement that says so names log 4 and cites no
rule for it. The block has no memory, no registers and no flags (10_state.md R14, R15, R18), so no frame speaks of
them. -/

open Sys2Proof Sys2Proof.Machine

/-! ### Reset and the handshake -/

/-- 10_state.md R16: `phase = IDLE` and `crc = 0xFF` after reset, and the hardwired constants hold the values of
R14's table. Nothing is claimed of `RSP`, which R16 leaves unspecified. -/
def Obligations.ResetStateIsIdleWithCrcLoaded : Prop :=
  State.reset.phase = .idle ∧ State.reset.crc = 0xFF#8 ∧
  crcPoly = 0x31#8 ∧ crcInit = 0xFF#8 ∧ crcRefIn = false ∧ crcRefOut = false ∧ crcXorOut = 0x00#8 ∧
  wireOpcodes = [0x0010#16, 0x0104#16, 0x0202#16, 0x0300#16, 0x4600#16, 0x5306#16, 0xD304#16, 0xD100#16]

/-- 70_reset_and_hazards.md R100: the reset event, in any phase: `phase` is IDLE, `crc` is 0xFF, `RSP` is unspecified,
a response not taken is lost (it does not reach `taken`), and issuing the request again gives the result. That the
host's lists `pending`, `moves` and `taken` stay through the reset event is the model's choice (log 13, DESIGN CHOICE),
not R100's. -/
def Obligations.ResetEventReturnsBlockToIdle : Prop :=
  ∀ (s : State) (ms : List Move), s.moves = .reset :: ms →
    ∃ q n, step s = .next { s with moves := ms, phase := .idle, crc := 0xFF#8, rsp := q, fresh := n } ∧
      ∀ r : Request, r.wf = true →
        ∃ u c k, issueRequest r { s with moves := ms, phase := .idle, crc := 0xFF#8, rsp := q, fresh := n } = .next u ∧
          u = { s with moves := ms, phase := .done, rsp := answer r, crc := c, fresh := k }

/-- 10_state.md R12: the two steps. `issue` in IDLE puts the response of the next request in `RSP` and goes to DONE;
`take` in DONE lets the host observe `RSP` and goes to IDLE; `issue` in DONE and `take` in IDLE are not enabled. The
model's own in it: a take leaves `crc` unchanged (log 4, DEDUCED), and an attempted step that is not enabled is taken
off `moves` and changes nothing else (log 6, DESIGN CHOICE). -/
def Obligations.HandshakeAlternatesIssueAndTake : Prop :=
  (∀ (s : State) (ms : List Move) (r : Request) (rs : List Request),
    s.moves = .issue :: ms → s.phase = .idle → s.pending = r :: rs → r.wf = true →
    ∃ c n, step s =
      .next { s with moves := ms, pending := rs, phase := .done, rsp := answer r, crc := c, fresh := n }) ∧
  (∀ (s : State) (ms : List Move), s.moves = .take :: ms → s.phase = .done →
    ∃ q n, step s =
      .next { s with moves := ms, phase := .idle, taken := s.taken ++ [s.rsp], rsp := q, fresh := n }) ∧
  (∀ (s : State) (ms : List Move), s.moves = .issue :: ms → s.phase = .done → step s = .next { s with moves := ms }) ∧
  (∀ (s : State) (ms : List Move), s.moves = .take :: ms → s.phase = .idle → step s = .next { s with moves := ms })

/-- 70_reset_and_hazards.md R102: a host that only ever attempts to issue while a response waits is held for ever;
the response is never overwritten, no request is dropped, nothing else changes. That each held attempt is taken off
`moves` is the model's choice (log 6, DESIGN CHOICE). -/
def Obligations.HostThatDoesNotTakeIsHeldForever : Prop :=
  ∀ (k : Nat) (s : State), s.phase = .done → (∀ m ∈ s.moves, m = .issue) →
    ∃ ms, Host.Core.run Sys2Proof.core k s = .next { s with moves := ms }

/-- The model's choice (log 8): called directly in a phase that does not enable them (10_state.md R12), every
operation, the error response and `take` stop by name. The machine's own step never does so. -/
def Obligations.DisabledStepsStopByName : Prop :=
  (∀ (i : Instr) (s : State), s.phase = .done → exec i s = .fault .issueNotEnabled) ∧
  (∀ (e : Status) (s : State), s.phase = .done → raise e s = .fault .issueNotEnabled) ∧
  (∀ s : State, s.phase = .idle → takeResponse s = .fault .takeNotEnabled)

/-- A step runs the decoded instruction: with the block idle, an issue attempted and a request first in line whose
bytes decode to `i`, the step is `exec i` once the move and the request are off their lists. -/
def Obligations.StepRunsTheDecodedInstruction : Prop :=
  ∀ (s : State) (i : Instr) (r : Request) (rs : List Request) (ms : List Move),
    s.phase = .idle → s.moves = .issue :: ms → s.pending = r :: rs → r.wf = true → decode r.bytes = .ok i →
    step s = exec i { s with moves := ms, pending := rs }

/-- A word of the opcode table that the decoder reads is what the next step runs when it is placed in the machine
(the model's choice of where a request waits, log 12). -/
def Obligations.PlacedTableWordRunsNext : Prop :=
  ∀ (s : State) (nbits w : Nat) (i : Instr), decodeTableWord nbits w = some i →
    step (s.withFetchWord nbits w) = exec i { s with phase := .idle }

/-! ### Encoding -/

/-- Decoding the bytes of any well-formed instruction gives it back, every operand byte included; the sequence has
length N + 2 and begins with OP and N (30_encoding.md R30, R32). -/
def Obligations.DecodeOfEncodeIsTheInstruction : Prop :=
  ∀ i : Instr, i.wf = true →
    decode (encode i) = .ok i ∧ (encode i).length = i.operands.length + 2 ∧
      (encode i).take 2 = [i.op, BitVec.ofNat 8 i.operands.length] ∧ (encode i).drop 2 = i.operands

/-- What the decoder accepts is well formed and has exactly the bytes it was read from (30_encoding.md R30). -/
def Obligations.EncodeOfDecodeIsTheBytes : Prop :=
  ∀ (bytes : List Byte) (i : Instr), decode bytes = .ok i → encode i = bytes ∧ i.wf = true

/-- 30_encoding.md R30: a byte sequence is a request exactly when its length is its byte 1 plus 2, and then OP is
byte 0 and D the bytes from 2 on; any other is rejected. -/
def Obligations.RequestLengthIsItsCountPlusTwo : Prop :=
  ∀ bytes : List Byte,
    ∀ r : Request, parseRequest bytes = .ok r ↔
      ∃ n : Byte, bytes = r.op :: n :: r.d ∧ bytes.length = n.toNat + 2

/-- Sanity: words written out from 30_encoding.md R30 and R32 decode to the instructions they stand for. -/
def Obligations.WrittenOutWordsDecode : Prop :=
  decode [0b00000001#8, 2#8, 0xBE#8, 0xEF#8] = .ok (.crc8 [0xBE#8, 0xEF#8]) ∧
  decode [0b00000010#8, 3#8, 0xBE#8, 0xEF#8, 0x92#8] = .ok (.validate [0xBE#8, 0xEF#8, 0x92#8]) ∧
  decode [0b00010000#8, 4#8, 0x43#8, 0xC8#8, 0x00#8, 0x00#8] = .ok (.fdec [0x43#8, 0xC8#8, 0x00#8, 0x00#8]) ∧
  decode [0b00100000#8, 2#8, 0x03#8, 0xB0#8] = .ok (.cmdStart [0x03#8, 0xB0#8]) ∧
  decode [0b00100101#8, 2#8, 0x00#8, 0x78#8] = .ok (.cmdSetint [0x00#8, 0x78#8]) ∧
  decode [0b00101000#8, 0#8] = .ok (.cmdFwver []) ∧
  decode [0b00000000#8, 0#8] = .error (.unassigned 0x00#8) ∧
  decode [0b00101001#8, 0#8] = .error (.unassigned 0x29#8)

/-- 30_encoding.md R42: reading the written form of any instruction gives it back; and a number stands for its two
bytes, high byte first. For CMD_START and CMD_SETINT with one operand byte the first clause rests on the model's choice
that a single word of two hexadecimal digits is a byte and not a number (log 16, DESIGN CHOICE), which R42 does not
settle. -/
def Obligations.WrittenRequestReadsBack : Prop :=
  (∀ i : Instr, readRequest (writeRequest i) = some i) ∧
  readRequest ["CMD_START", "944"] = some (.cmdStart [0x03#8, 0xB0#8]) ∧
  readRequest ["CMD_SETINT", "0x0708"] = some (.cmdSetint [0x07#8, 0x08#8]) ∧
  readRequest ["CMD_SETINT", "65535"] = some (.cmdSetint [0xFF#8, 0xFF#8]) ∧
  readRequest ["CMD_SETINT", "65536"] = none

/-! ### The whole dispatch -/

/-- 30_encoding.md R32, 60_exceptions.md R92: issuing any request in IDLE completes with the response of the
operation map, built a second time from R32's rows: first the selector, then the count, then the result. Everything
but the handshake and the CRC unit's register is unchanged. -/
def Obligations.IssueFollowsTheOperationMap : Prop :=
  ∀ (r : Request) (s : State), r.wf = true → s.phase = .idle →
    ∃ c n, issueRequest r s = .next { s with phase := .done, rsp := answer r, crc := c, fresh := n }

/-- 10_state.md R17: two requests with equal (OP, N, D) get equal responses whatever state they are issued in, the
state right after reset included (70_reset_and_hazards.md R101); nothing is written but the result, the handshake and
the CRC unit's working register. -/
def Obligations.ResponseDependsOnRequestAlone : Prop :=
  ∀ (r : Request) (s₁ s₂ : State), r.wf = true → s₁.phase = .idle → s₂.phase = .idle →
    ∃ t₁ t₂ t₀, issueRequest r s₁ = .next t₁ ∧ issueRequest r s₂ = .next t₂ ∧
      issueRequest r State.reset = .next t₀ ∧ t₁.rsp = t₂.rsp ∧ t₁.rsp = t₀.rsp ∧
      t₁ = { s₁ with phase := .done, rsp := t₁.rsp, crc := t₁.crc, fresh := t₁.fresh }

/-- 20_memory.md R28: which operand bytes are read. The first four and the count decide the response; a command
without argument reads none; CRC8, CMD_START and CMD_SETINT read two, VALIDATE three; and an error depends on OP and
N only. -/
def Obligations.OnlyNamedOperandBytesAreRead : Prop :=
  ∀ (r r' : Request) (s : State), r.wf = true → r'.wf = true → s.phase = .idle → r.op = r'.op → r.n = r'.n →
    ∃ t t', issueRequest r s = .next t ∧ issueRequest r' s = .next t' ∧
      (r.d.take 4 = r'.d.take 4 → t.rsp = t'.rsp) ∧
      (r.op ∈ [0x01#8, 0x20#8, 0x25#8] → r.d.take 2 = r'.d.take 2 → t.rsp = t'.rsp) ∧
      (r.op = 0x02#8 → r.d.take 3 = r'.d.take 3 → t.rsp = t'.rsp) ∧
      (r.op ∈ [0x21#8, 0x22#8, 0x23#8, 0x24#8, 0x26#8, 0x27#8, 0x28#8] → t.rsp = t'.rsp) ∧
      (t.rsp.st ≠ 0x00#8 → t.rsp = t'.rsp)

/-- 30_encoding.md R31, R33: the response to any request: one of the four statuses, M = 0 exactly when ST is not OK,
M by operation when it is, and the byte sequence ST, M, Q of length M + 2. -/
def Obligations.ResponseFormatIsLegal : Prop :=
  ∀ (r : Request) (s : State), r.wf = true → s.phase = .idle →
    ∃ t, issueRequest r s = .next t ∧
      t.rsp.st ∈ [0x00#8, 0x01#8, 0x02#8, 0x03#8] ∧
      (t.rsp.m = 0 ↔ t.rsp.st ≠ 0x00#8) ∧
      (t.rsp.st = 0x00#8 →
        (r.op ∈ [0x01#8, 0x02#8] → t.rsp.m = 1) ∧ (r.op = 0x10#8 → t.rsp.m = 4) ∧
        (r.op ∈ [0x21#8, 0x22#8, 0x23#8, 0x24#8, 0x26#8, 0x27#8, 0x28#8] → t.rsp.m = 2) ∧
        (r.op ∈ [0x20#8, 0x25#8] → t.rsp.m = 5)) ∧
      responseBytes t.rsp = t.rsp.st :: BitVec.ofNat 8 t.rsp.m :: t.rsp.q ∧
      (responseBytes t.rsp).length = t.rsp.m + 2

/-! ### Errors -/

/-- 30_encoding.md R39: the 244 unassigned values of OP answer IllegalOperation whatever N and D, and are no
operation. That nothing but the handshake changes is 60_exceptions.md R91's, and that `crc` is among what stays is the
model's reading of it (log 4, DEDUCED). -/
def Obligations.UnassignedSelectorsAnswerIllegalOperation : Prop :=
  (∀ (r : Request) (s : State), r.wf = true → s.phase = .idle →
    r.op ∉ [0x01#8, 0x02#8, 0x10#8, 0x20#8, 0x21#8, 0x22#8, 0x23#8, 0x24#8, 0x25#8, 0x26#8, 0x27#8, 0x28#8] →
    issueRequest r s = .next { s with phase := .done, rsp := ⟨0x03#8, []⟩ } ∧
      decodeRequest r = .error (.unassigned r.op)) ∧
  ((List.range 256).filter fun v =>
    v = 0x00 ∨ 0x03 ≤ v ∧ v ≤ 0x0F ∨ 0x11 ≤ v ∧ v ≤ 0x1F ∨ 0x29 ≤ v).length = 244 ∧
  ∀ v < 256, (v = 0x00 ∨ 0x03 ≤ v ∧ v ≤ 0x0F ∨ 0x11 ≤ v ∧ v ≤ 0x1F ∨ 0x29 ≤ v) ↔
    BitVec.ofNat 8 v ∉ [0x01#8, 0x02#8, 0x10#8, 0x20#8, 0x21#8, 0x22#8, 0x23#8, 0x24#8, 0x25#8, 0x26#8, 0x27#8, 0x28#8]

/-- 60_exceptions.md R90: each error and exactly when it is raised. -/
def Obligations.EachErrorHasItsCause : Prop :=
  ∀ (r : Request) (s : State), r.wf = true → s.phase = .idle →
    ∃ t, issueRequest r s = .next t ∧
      (t.rsp.st = 0x01#8 ↔
        (r.op = 0x01#8 ∧ r.n ≠ 2) ∨ (r.op = 0x02#8 ∧ r.n ≠ 3) ∨
        (r.op ∈ [0x21#8, 0x22#8, 0x23#8, 0x24#8, 0x26#8, 0x27#8, 0x28#8] ∧ r.n ≠ 0) ∨
        (r.op ∈ [0x20#8, 0x25#8] ∧ r.n ≠ 2)) ∧
      (t.rsp.st = 0x02#8 ↔ r.op = 0x10#8 ∧ r.n < 4) ∧
      (t.rsp.st = 0x03#8 ↔
        r.op ∉ [0x01#8, 0x02#8, 0x10#8, 0x20#8, 0x21#8, 0x22#8, 0x23#8, 0x24#8, 0x25#8, 0x26#8, 0x27#8, 0x28#8])

/-- 60_exceptions.md R91: an error ends at once with `(code, 0)`; apart from the handshake no state changes. That the
working register `crc` is among what stays is the model's reading (log 4, DEDUCED): 93_implementation_defined.md U3
calls its content after an error open. -/
def Obligations.ErrorsChangeNothingButTheHandshake : Prop :=
  ∀ (r : Request) (s : State), r.wf = true → s.phase = .idle →
    ∃ t, issueRequest r s = .next t ∧
      (t.rsp.st ≠ 0x00#8 → t = { s with phase := .done, rsp := ⟨t.rsp.st, []⟩ })

/-! ### CRC unit -/

/-- 41_crc8.md R53: CRC8, its encoding, its error, its corner cases. That `crc` is unchanged after
InvalidLength is the model's reading (log 4, DEDUCED), not R53's. -/
def Obligations.Crc8ComputesTheChecksum : Prop :=
  (∀ (s : State) (d0 d1 : Byte), s.phase = .idle →
    ∃ c n, exec (.crc8 [d0, d1]) s =
      .next { s with phase := .done, rsp := ⟨0x00#8, [crc8 d0 d1]⟩, crc := c, fresh := n }) ∧
  (∀ (s : State) (d : List Byte), s.phase = .idle → d.length ≠ 2 →
    exec (.crc8 d) s = .next { s with phase := .done, rsp := ⟨0x01#8, []⟩ }) ∧
  (∀ d0 d1 : Byte, encode (.crc8 [d0, d1]) = [0x01#8, 0x02#8, d0, d1]) ∧
  crc8 0x00#8 0x00#8 = 0x81#8 ∧ crc8 0xFF#8 0xFF#8 = 0xAC#8 ∧ crc8 0xBE#8 0xEF#8 = 0x92#8 ∧
  (∀ b : Byte, crc8 b 0x00#8 = 0x00#8 ↔ b = 0xFF#8) ∧
  (∀ d0 : Byte, Function.Bijective (fun d1 => crc8 d0 d1)) ∧
  (∀ d1 : Byte, Function.Bijective (fun d0 => crc8 d0 d1)) ∧
  (∀ c : Byte, {p : Byte × Byte | crc8 p.1 p.2 = c}.ncard = 256)

/-- 41_crc8.md R54: VALIDATE, its encoding, its error, its corner cases and the equivalent residue test. A word that
fails its check is answered with status OK. That `crc` is unchanged after InvalidLength is the model's reading
(log 4, DEDUCED), not R54's. -/
def Obligations.ValidateChecksTheWord : Prop :=
  (∀ (s : State) (d0 d1 d2 : Byte), s.phase = .idle →
    ∃ c n, exec (.validate [d0, d1, d2]) s =
      .next { s with phase := .done, rsp := ⟨0x00#8, [if crc8 d0 d1 = d2 then 0x01#8 else 0x00#8]⟩,
                     crc := c, fresh := n }) ∧
  (∀ (s : State) (d : List Byte), s.phase = .idle → d.length ≠ 3 →
    exec (.validate d) s = .next { s with phase := .done, rsp := ⟨0x01#8, []⟩ }) ∧
  (∀ d0 d1 d2 : Byte, encode (.validate [d0, d1, d2]) = [0x02#8, 0x03#8, d0, d1, d2]) ∧
  crc8 0x00#8 0x00#8 ≠ 0x00#8 ∧ crc8 0xFF#8 0x00#8 = 0x00#8 ∧ crc8 0x00#8 0x00#8 = 0x81#8 ∧
  crc8 0xFF#8 0xFF#8 ≠ 0xFF#8 ∧ crc8 0xBE#8 0xEF#8 = 0x92#8 ∧
  (∀ d0 d1 d2 : Byte, crc8 d0 d1 = d2 ↔ crcResidue ⟨d0, d1, d2⟩ = 0x00#8)

/-- 41_crc8.md R55: the document's vector, and `validate(word)` true iff `word[2] == crc8(word[0..2])`, as functions
of the operand bytes alone. -/
def Obligations.CheckValueAndValidateAgreeWithTheSource : Prop :=
  crc8 0xBE#8 0xEF#8 = 0x92#8 ∧
  ∀ (w : RawWord) (s : State), s.phase = .idle →
    ∃ t u, exec (.crc8 [w.hi, w.lo]) s = .next t ∧ t.rsp = ⟨0x00#8, [crc8 w.hi w.lo]⟩ ∧
      exec (.validate (wordBytes w)) s = .next u ∧ u.rsp.st = 0x00#8 ∧
      (u.rsp.q = [0x01#8] ↔ w.crc = crc8 w.hi w.lo) ∧ (u.rsp.q = [0x00#8] ↔ w.crc ≠ crc8 w.hi w.lo)

/-- 41_crc8.md R51, equivalent form (a): the byte step T, its linearity, its printed table and its bit equations. -/
def Obligations.ByteStepFormComputesCrc8 : Prop :=
  (∀ b0 b1 : Byte, crc8 b0 b1 = crcT (crcT (0xFF#8 ^^^ b0) ^^^ b1)) ∧
  (∀ x y : Byte, crcT (x ^^^ y) = crcT x ^^^ crcT y) ∧
  (∀ x : Byte, crcTable[x.toNat]? = some (crcT x)) ∧
  (∀ (x : Byte) (k : Nat), (crcT x).getLsbD k = crcTBit x k)

/-- 41_crc8.md R51, equivalent form (b): the bit-serial register, with the taps at bits 0, 4 and 5. -/
def Obligations.BitSerialFormComputesCrc8 : Prop :=
  (∀ b0 b1 : Byte, crc8 b0 b1 = crcSerial b0 b1) ∧
  (∀ (c : Byte) (d : Bool) (k : Nat), k < 8 →
    (crcSerialStep c d).getLsbD k =
      (if k = 0 then c.getLsbD 7 ^^ d
       else if k = 4 ∨ k = 5 then c.getLsbD (k - 1) ^^ (c.getLsbD 7 ^^ d)
       else c.getLsbD (k - 1)))

/-- 41_crc8.md R51, equivalent form (c): `crc8(b0, b1)` is the remainder over GF(2) of
`((b0 XOR 0xFF) ∥ b1 ∥ 0x00)` divided by x^8 + x^5 + x^4 + 1: the dividend is a multiple of the generator plus a
polynomial of degree below 8, which is the checksum. -/
def Obligations.Crc8IsThePolynomialRemainder : Prop :=
  ∀ b0 b1 : Byte, ∃ q : Half, crcDividend b0 b1 = timesGenerator q ^^^ (crc8 b0 b1).setWidth 24

/-- 41_crc8.md R56: if VALIDATE of a word gives true and one, two or three of its 24 bits are inverted, in any
positions, VALIDATE of the changed word gives false. -/
def Obligations.UpToThreeInvertedBitsAreDetected : Prop :=
  ∀ (w : RawWord) (e : Bits24) (s : State), s.phase = .idle → crc8 w.hi w.lo = w.crc →
    1 ≤ weight e → weight e ≤ 3 →
    (∃ t, exec (.validate (wordBytes w)) s = .next t ∧ t.rsp = ⟨0x00#8, [0x01#8]⟩) ∧
    (∃ t, exec (.validate (wordBytes (corrupt w e))) s = .next t ∧ t.rsp = ⟨0x00#8, [0x00#8]⟩)

/-- 41_crc8.md R56: every change of an odd number of bits of a valid word is detected. -/
def Obligations.OddNumbersOfInvertedBitsAreDetected : Prop :=
  ∀ (w : RawWord) (e : Bits24) (s : State), s.phase = .idle → crc8 w.hi w.lo = w.crc → weight e % 2 = 1 →
    ∃ t, exec (.validate (wordBytes (corrupt w e))) s = .next t ∧ t.rsp = ⟨0x00#8, [0x00#8]⟩

/-- 41_crc8.md R56: the affine law; the undetected changes `a ∥ b ∥ c` of a valid word are those with
`c = T(T(a) XOR b)`; and the four-bit pattern 00 01 31 is one of them. -/
def Obligations.UndetectedChangesAreTheCodewords : Prop :=
  (∀ a a' b b' : Byte, crc8 (a ^^^ a') (b ^^^ b') = crc8 a b ^^^ crc8 a' b' ^^^ 0x81#8) ∧
  (∀ (w : RawWord) (a b c : Byte), crc8 w.hi w.lo = w.crc →
    (wordValid (corrupt w (wordBits ⟨a, b, c⟩)) = true ↔ c = crcT (crcT a ^^^ b))) ∧
  weight (wordBits ⟨0x00#8, 0x01#8, 0x31#8⟩) = 4 ∧
  (∀ w : RawWord, crc8 w.hi w.lo = w.crc → wordValid (corrupt w (wordBits ⟨0x00#8, 0x01#8, 0x31#8⟩)) = true)

/-! ### Float decoder -/

/-- 42_float_decoder.md R62: FDEC, its encoding, its error, surplus bytes ignored, the worked example. That `crc` is
unchanged after FDEC and after its error is the model's reading (log 4, DEDUCED): R62 writes no state beyond the
response, and 93_implementation_defined.md U3 calls the content of `crc` open. -/
def Obligations.FdecAssemblesFourBytes : Prop :=
  (∀ (s : State) (d0 d1 d2 d3 : Byte) (rest : List Byte), s.phase = .idle →
    exec (.fdec (d0 :: d1 :: d2 :: d3 :: rest)) s =
      .next { s with phase := .done, rsp := ⟨0x00#8, [d0, d1, d2, d3]⟩ }) ∧
  (∀ (s : State) (d : List Byte), s.phase = .idle → d.length < 4 →
    exec (.fdec d) s = .next { s with phase := .done, rsp := ⟨0x02#8, []⟩ }) ∧
  (∀ d0 d1 d2 d3 : Byte, encode (.fdec [d0, d1, d2, d3]) = [0x10#8, 0x04#8, d0, d1, d2, d3]) ∧
  patternOf 0x43#8 0xC8#8 0x00#8 0x00#8 = 0x43C80000#32 ∧
  (floatVal 0x43C80000#32).toRat = some 400

/-- 42_float_decoder.md R60, R63: every one of the 2^32 patterns is a legal input and is its own output, assembled
with the first byte in bits 31:24 and the last in bits 7:0. That `crc` is unchanged after FDEC is the model's reading
(log 4, DEDUCED), neither R60's nor R63's. -/
def Obligations.EveryPatternPassesBitForBit : Prop :=
  ∀ (f : Pattern) (s : State), s.phase = .idle →
    ∃ p0 p1 p2 p3, patternBytes f = [p0, p1, p2, p3] ∧ patternOf p0 p1 p2 p3 = f ∧
      f.extractLsb' 24 8 = p0 ∧ f.extractLsb' 16 8 = p1 ∧ f.extractLsb' 8 8 = p2 ∧ f.extractLsb' 0 8 = p3 ∧
      exec (.fdec [p0, p1, p2, p3]) s = .next { s with phase := .done, rsp := ⟨0x00#8, [p0, p1, p2, p3]⟩ }

/-- 42_float_decoder.md R61: what patterns of every class denote (examples of 95_test_vectors.md V6). -/
def Obligations.FloatPatternsDenoteTheirValues : Prop :=
  (floatVal 0x43E10000#32).toRat = some 450 ∧ (floatVal 0x42200000#32).toRat = some 40 ∧
  (floatVal 0x3F800000#32).toRat = some 1 ∧ (floatVal 0xBF800000#32).toRat = some (-1) ∧
  floatVal 0x41AA6666#32 = .finite false 11167334 (-19) ∧
  floatVal 0x00000000#32 = .finite false 0 (-149) ∧ floatVal 0x80000000#32 = .finite true 0 (-149) ∧
  floatVal 0x00000001#32 = .finite false 1 (-149) ∧ floatVal 0x007FFFFF#32 = .finite false (2 ^ 23 - 1) (-149) ∧
  floatVal 0x00800000#32 = .finite false (2 ^ 23) (-149) ∧ floatVal 0x7F7FFFFF#32 = .finite false (2 ^ 24 - 1) 104 ∧
  floatVal 0x7F800000#32 = .infinity false ∧ floatVal 0xFF800000#32 = .infinity true ∧
  floatVal 0x7FC00000#32 = .nan false 0x400000#23 ∧ floatVal 0x7F800001#32 = .nan false 1#23

/-! ### Command encoder -/

/-- 43_command_encoder.md R72, R77: CMD_START and CMD_SETINT return the C5 frame of their opcode and argument, every
argument value included; any other operand count is InvalidLength. That `crc` is unchanged after
InvalidLength is the model's reading (log 4, DEDUCED), neither R72's nor R77's. -/
def Obligations.CommandsWithArgumentReturnTheirFrame : Prop :=
  (∀ (s : State) (d0 d1 : Byte), s.phase = .idle →
    (∃ c n, exec (.cmdStart [d0, d1]) s =
      .next { s with phase := .done, rsp := ⟨0x00#8, [0x00#8, 0x10#8, d0, d1, crc8 d0 d1]⟩, crc := c, fresh := n }) ∧
    (∃ c n, exec (.cmdSetint [d0, d1]) s =
      .next { s with phase := .done, rsp := ⟨0x00#8, [0x46#8, 0x00#8, d0, d1, crc8 d0 d1]⟩, crc := c, fresh := n })) ∧
  (∀ (s : State) (d : List Byte), s.phase = .idle → d.length ≠ 2 →
    exec (.cmdStart d) s = .next { s with phase := .done, rsp := ⟨0x01#8, []⟩ } ∧
    exec (.cmdSetint d) s = .next { s with phase := .done, rsp := ⟨0x01#8, []⟩ }) ∧
  (∀ d0 d1 : Byte, encode (.cmdStart [d0, d1]) = [0x20#8, 0x02#8, d0, d1] ∧
    encode (.cmdSetint [d0, d1]) = [0x25#8, 0x02#8, d0, d1]) ∧
  crc8 0x03#8 0xB0#8 = 0x13#8 ∧ crc8 0x00#8 0x78#8 = 0xC0#8 ∧ crc8 0x00#8 0x02#8 = 0xE3#8 ∧
  crc8 0x07#8 0x08#8 = 0x96#8 ∧ crc8 0x00#8 0x00#8 = 0x81#8 ∧ crc8 0xFF#8 0xFF#8 = 0xAC#8

/-- 43_command_encoder.md R73 to R76, R78 to R80: CMD_STOP, CMD_RDY, CMD_READ, CMD_GETINT, CMD_ASC, CMD_RESET and
CMD_FWVER return their wire opcode, most significant byte first; any operand byte is InvalidLength. CMD_RESET leaves
the block as any other of them does (70_reset_and_hazards.md R105). That `crc` is unchanged after these operations and
after InvalidLength is the model's reading (log 4, DEDUCED; 93_implementation_defined.md U3 calls it open), not R73's
to R80's. -/
def Obligations.CommandsWithoutArgumentReturnTheirOpcode : Prop :=
  (∀ s : State, s.phase = .idle →
    exec (.cmdStop []) s = .next { s with phase := .done, rsp := ⟨0x00#8, [0x01#8, 0x04#8]⟩ } ∧
    exec (.cmdRdy []) s = .next { s with phase := .done, rsp := ⟨0x00#8, [0x02#8, 0x02#8]⟩ } ∧
    exec (.cmdRead []) s = .next { s with phase := .done, rsp := ⟨0x00#8, [0x03#8, 0x00#8]⟩ } ∧
    exec (.cmdGetint []) s = .next { s with phase := .done, rsp := ⟨0x00#8, [0x46#8, 0x00#8]⟩ } ∧
    exec (.cmdAsc []) s = .next { s with phase := .done, rsp := ⟨0x00#8, [0x53#8, 0x06#8]⟩ } ∧
    exec (.cmdReset []) s = .next { s with phase := .done, rsp := ⟨0x00#8, [0xD3#8, 0x04#8]⟩ } ∧
    exec (.cmdFwver []) s = .next { s with phase := .done, rsp := ⟨0x00#8, [0xD1#8, 0x00#8]⟩ }) ∧
  (∀ (s : State) (d : List Byte) (f : List Byte → Instr), s.phase = .idle → d ≠ [] →
    f ∈ [Instr.cmdStop, .cmdRdy, .cmdRead, .cmdGetint, .cmdAsc, .cmdReset, .cmdFwver] →
    exec (f d) s = .next { s with phase := .done, rsp := ⟨0x01#8, []⟩ }) ∧
  encode (.cmdStop []) = [0x21#8, 0x00#8] ∧ encode (.cmdRdy []) = [0x22#8, 0x00#8] ∧
  encode (.cmdRead []) = [0x23#8, 0x00#8] ∧ encode (.cmdGetint []) = [0x24#8, 0x00#8] ∧
  encode (.cmdAsc []) = [0x26#8, 0x00#8] ∧ encode (.cmdReset []) = [0x27#8, 0x00#8] ∧
  encode (.cmdFwver []) = [0x28#8, 0x00#8]

/-- 43_command_encoder.md R71: the last three bytes of every C5 frame are a valid RawWord: once the frame is taken,
VALIDATE of them gives true. The checksum is of the two argument bytes, high byte first. -/
def Obligations.FrameArgumentIsAValidRawWord : Prop :=
  ∀ (s : State) (d0 d1 : Byte) (f : List Byte → Instr), s.phase = .idle → f ∈ [Instr.cmdStart, .cmdSetint] →
    ∃ t u v, exec (f [d0, d1]) s = .next t ∧ t.rsp.q.drop 2 = [d0, d1, crc8 d0 d1] ∧
      takeResponse t = .next u ∧ exec (.validate (t.rsp.q.drop 2)) u = .next v ∧ v.rsp = ⟨0x00#8, [0x01#8]⟩

/-- 30_encoding.md R36, 43_command_encoder.md R81: every 16-bit argument is encoded as given and stands unchanged,
big-endian, at bytes 2 and 3 of the frame. -/
def Obligations.ArgumentStandsUnchangedInTheFrame : Prop :=
  (∀ d0 d1 : Byte, (argOf d0 d1).toNat = 256 * d0.toNat + d1.toNat ∧ argBytes (argOf d0 d1) = [d0, d1]) ∧
  ∀ (arg : Half) (s : State) (f : List Byte → Instr), s.phase = .idle → f ∈ [Instr.cmdStart, .cmdSetint] →
    ∃ t a0 a1, exec (f (argBytes arg)) s = .next t ∧ t.rsp.st = 0x00#8 ∧
      (t.rsp.q.drop 2).take 2 = [a0, a1] ∧ argOf a0 a1 = arg ∧
      a0 = arg.extractLsb' 8 8 ∧ a1 = arg.extractLsb' 0 8

/-- 30_encoding.md R40: the encoder never produces a frame whose first two bytes are not one of the eight wire
opcodes, nor one of a length other than 2 or 5; the opcode is chosen by OP alone. -/
def Obligations.EncoderEmitsOnlyTheEightOpcodes : Prop :=
  ∀ (i j : Instr) (s t u : State), 0x20#8 ≤ i.op → i.op = j.op → exec i s = .next t → exec j s = .next u →
    t.rsp.st = 0x00#8 → u.rsp.st = 0x00#8 →
    (∃ wop ∈ [0x0010#16, 0x0104#16, 0x0202#16, 0x0300#16, 0x4600#16, 0x5306#16, 0xD304#16, 0xD100#16],
      frameOpcode t.rsp.q = some wop ∧ frameOpcode u.rsp.q = some wop) ∧
    (t.rsp.q.length = 2 ∨ t.rsp.q.length = 5) ∧ t.rsp.q.length = u.rsp.q.length

/-- 30_encoding.md R41: a reader of frames tells the format of every frame the encoder returns. -/
def Obligations.FrameReaderTellsTheFormat : Prop :=
  (∀ (i : Instr) (s t : State), 0x20#8 ≤ i.op → exec i s = .next t → t.rsp.st = 0x00#8 →
    frameFormat t.rsp.q = some (if i.op = 0x20#8 ∨ i.op = 0x25#8 then .c5 else .c2)) ∧
  (∀ frame : List Byte, frameFormat frame = some .c5 ↔
    frame.length = 5 ∧ (frameOpcode frame = some 0x0010#16 ∨ frameOpcode frame = some 0x4600#16)) ∧
  (∀ frame : List Byte, frameFormat frame = some .c2 ↔
    frame.length = 2 ∧ ∃ wop ∈ [0x0104#16, 0x0202#16, 0x0300#16, 0x4600#16, 0x5306#16, 0xD304#16, 0xD100#16],
      frameOpcode frame = some wop)

/-! ### Frames and invariants of the whole machine -/

/-- What every operation leaves unchanged when it answers a next state: the host's data always; the working register
(and the counter) unless the operation is one that computes a checksum and it succeeded (10_state.md R13; the model's
reading of U3 for the other operations, log 4). -/
def Obligations.OperationsChangeOnlyTheHandshakeAndCrc : Prop :=
  ∀ (i : Instr) (s t : State), exec i s = .next t →
    s.phase = .idle ∧ t.phase = .done ∧ t.pending = s.pending ∧ t.moves = s.moves ∧ t.taken = s.taken ∧
    (¬ (i.op ∈ [0x01#8, 0x02#8, 0x20#8, 0x25#8] ∧ t.rsp.st = 0x00#8) → t.crc = s.crc ∧ t.fresh = s.fresh)

/-- The invariant holds right after reset, with the value the model's reset state gives `RSP` (log 1, DESIGN CHOICE;
R16 leaves it unspecified). -/
def Obligations.ResetStateMeetsTheInvariant : Prop := State.reset.Inv ∧ State.reset.Explained

/-- Every step keeps the invariant: `RSP` never exceeds 5 bytes, what waits in DONE and what the host has taken are
legal responses (30_encoding.md R31, R33), and what is pending are requests (10_state.md R11). -/
def Obligations.EveryStepKeepsTheInvariant : Prop :=
  ∀ s t : State, step s = .next t → s.Inv → t.Inv

/-- Every step keeps: each response waiting or taken is the function of 10_state.md R17 of some request, whatever
was requested before and however often the block was reset. -/
def Obligations.EveryResponseIsTheFunctionOfARequest : Prop :=
  ∀ s t : State, step s = .next t → s.Explained → t.Explained

/-- No run from a state that meets the invariant ever ends in a fault or a refusal (70_reset_and_hazards.md R108: no
operation can fail to terminate). -/
def Obligations.RunsNeverStop : Prop := ∀ s : State, s.Inv → s.Safe

/-- 20_memory.md R25: requests are executed one at a time in the order the host issues them, and each response is
available before the next request can be issued: a host that issues and takes in turn observes exactly the answers of
its requests, in order, errors among them (60_exceptions.md R95), and the block is idle again. -/
def Obligations.RequestsAreAnsweredInIssueOrder : Prop :=
  ∀ (rs rest : List Request) (ms : List Move) (s : State), s.phase = .idle → (∀ r ∈ rs, Request.wf r = true) →
    s.pending = rs ++ rest → s.moves = (rs.flatMap fun _ => [Move.issue, Move.take]) ++ ms →
    ∃ q c n, Host.Core.run Sys2Proof.core (2 * rs.length) s =
      .next { s with pending := rest, moves := ms, taken := s.taken ++ rs.map answer, rsp := q, crc := c, fresh := n }

/-! ### Host procedures -/

/-- 42_float_decoder.md R66: FDECW issues two VALIDATEs and, only if both are true, one FDEC of the four payload
bytes, whose result bytes it delivers; else it reports ChecksumError and issues no FDEC. -/
def Obligations.FdecwDeliversOnlyValidatedPayload : Prop :=
  ∀ (w0 w1 : RawWord) (x : Session), x.state.phase = .idle →
    ∃ y, y.state.phase = .idle ∧
      (crc8 w0.hi w0.lo = w0.crc ∧ crc8 w1.hi w1.lo = w1.crc →
        fdecw w0 w1 x = .next (.delivered [w0.hi, w0.lo, w1.hi, w1.lo], y) ∧
        y.issued = x.issued ++ [(Instr.validate (wordBytes w0)).request, (Instr.validate (wordBytes w1)).request,
          (Instr.fdec [w0.hi, w0.lo, w1.hi, w1.lo]).request]) ∧
      (¬ (crc8 w0.hi w0.lo = w0.crc ∧ crc8 w1.hi w1.lo = w1.crc) →
        fdecw w0 w1 x = .next (.checksumError, y) ∧
        y.issued = x.issued ++ [(Instr.validate (wordBytes w0)).request, (Instr.validate (wordBytes w1)).request])

/-- 42_float_decoder.md R67, 70_reset_and_hazards.md R104: MDEC validates all six words first; if all are valid it
decodes CO2 from bytes 0, 1, 3, 4, temperature from 6, 7, 9, 10 and humidity from 12, 13, 15, 16; if any fails it
reports ChecksumError, issues no FDEC and delivers nothing. -/
def Obligations.MdecIsAllOrNothing : Prop :=
  ∀ (b : Vector Byte 18) (x : Session), x.state.phase = .idle →
    ∃ y, y.state.phase = .idle ∧
      ((∀ w ∈ answerWords b, crc8 w.hi w.lo = w.crc) →
        mdec b x = .next (.delivered ⟨[b[0], b[1], b[3], b[4]], [b[6], b[7], b[9], b[10]],
          [b[12], b[13], b[15], b[16]]⟩, y) ∧
        y.issued = x.issued ++ (answerWords b).map (fun w => (Instr.validate (wordBytes w)).request) ++
          [(Instr.fdec [b[0], b[1], b[3], b[4]]).request, (Instr.fdec [b[6], b[7], b[9], b[10]]).request,
           (Instr.fdec [b[12], b[13], b[15], b[16]]).request]) ∧
      ((∃ w ∈ answerWords b, crc8 w.hi w.lo ≠ w.crc) →
        mdec b x = .next (.checksumError, y) ∧
        y.issued = x.issued ++ (answerWords b).map (fun w => (Instr.validate (wordBytes w)).request))

/-- 95_test_vectors.md S2 for every pattern: wrapping each half of a pattern in a RawWord with its checksum and
decoding it with FDECW yields exactly the pattern. -/
def Obligations.FloatDecodeRoundTrips : Prop :=
  ∀ (f : Pattern) (x : Session), x.state.phase = .idle →
    ∃ p0 p1 p2 p3 y, patternBytes f = [p0, p1, p2, p3] ∧
      fdecw ⟨p0, p1, crc8 p0 p1⟩ ⟨p2, p3, crc8 p2 p3⟩ x = .next (.delivered [p0, p1, p2, p3], y) ∧
      patternOf p0 p1 p2 p3 = f

/-- 20_memory.md R22: word k of an 18-byte answer is bytes 3k, 3k+1, 3k+2. -/
def Obligations.AnswerIsCutIntoWordsByPosition : Prop :=
  ∀ (b : Vector Byte 18), (answerWords b).length = 6 ∧
    ∀ (k : Nat) (h : k < 6), (answerWords b)[k]? = some ⟨b[3 * k], b[3 * k + 1], b[3 * k + 2]⟩

/-- 30_encoding.md R43: CMD_INTERVAL without operand is CMD_GETINT, with one CMD_SETINT; the frames are 46 00 and
46 00 arg arg crc. That `crc` is unchanged after CMD_GETINT is the model's reading (log 4, DEDUCED), neither R43's nor
R76's. -/
def Obligations.CmdIntervalExpands : Prop :=
  ∀ (s : State) (arg : Half), s.phase = .idle →
    exec (cmdInterval none) s = .next { s with phase := .done, rsp := ⟨0x00#8, [0x46#8, 0x00#8]⟩ } ∧
    ∃ a0 a1 c n, argBytes arg = [a0, a1] ∧ cmdInterval (some arg) = .cmdSetint [a0, a1] ∧
      exec (cmdInterval (some arg)) s =
        .next { s with phase := .done, rsp := ⟨0x00#8, [0x46#8, 0x00#8, a0, a1, crc8 a0 a1]⟩, crc := c, fresh := n }
end

