-- ==== Sys2Proof/Laws/Crc.lean ====
section
/-! SUPPORT. The small lemmas of the CRC unit: with the hardwired parameters (00_scope.md R4) nothing is reflected
and XOR-out changes nothing, and the shift steps unfold one at a time. -/

namespace Sys2Proof.Machine

@[simp] theorem crcIn_eq (b : Byte) : crcIn b = b := rfl

@[simp] theorem crcOut_eq (c : Byte) : crcOut c = c := by
  simp [crcOut, crcRefOut, crcXorOut]

@[simp] theorem crcShifts_zero (c : Byte) : crcShifts 0 c = c := rfl

theorem crcShifts_succ (n : Nat) (c : Byte) : crcShifts (n + 1) c = crcShifts n (crcShift c) := rfl

theorem crcAbsorb_eq (c b : Byte) : crcAbsorb c b = crcT (c ^^^ b) := rfl

theorem wordValid_iff (w : RawWord) : wordValid w = true ↔ crc8 w.hi w.lo = w.crc := by
  simp [wordValid]

end Sys2Proof.Machine
end

