-- ==== Sys2Proof/Laws/State.lean ====
section
/-! SUPPORT. One lemma per field per update of State (answered, crcReleased, responseTaken, blockReset), and the
small lemmas of responses. Where an update draws a free value the lemma names the update, never a value. -/

namespace Sys2Proof.Machine

@[simp] theorem answered_phase (r : Response) (s : State) : (answered r s).phase = .done := rfl
@[simp] theorem answered_rsp (r : Response) (s : State) : (answered r s).rsp = r := rfl
@[simp] theorem answered_crc (r : Response) (s : State) : (answered r s).crc = s.crc := rfl
@[simp] theorem answered_pending (r : Response) (s : State) : (answered r s).pending = s.pending := rfl
@[simp] theorem answered_moves (r : Response) (s : State) : (answered r s).moves = s.moves := rfl
@[simp] theorem answered_taken (r : Response) (s : State) : (answered r s).taken = s.taken := rfl
@[simp] theorem answered_fresh (r : Response) (s : State) : (answered r s).fresh = s.fresh := rfl

@[simp] theorem crcReleased_phase (s : State) : (crcReleased s).phase = s.phase := rfl
@[simp] theorem crcReleased_rsp (s : State) : (crcReleased s).rsp = s.rsp := rfl
@[simp] theorem crcReleased_pending (s : State) : (crcReleased s).pending = s.pending := rfl
@[simp] theorem crcReleased_moves (s : State) : (crcReleased s).moves = s.moves := rfl
@[simp] theorem crcReleased_taken (s : State) : (crcReleased s).taken = s.taken := rfl
@[simp] theorem crcReleased_fresh (s : State) : (crcReleased s).fresh = s.fresh + 1 := rfl

@[simp] theorem responseTaken_phase (s : State) : (responseTaken s).phase = .idle := rfl
@[simp] theorem responseTaken_crc (s : State) : (responseTaken s).crc = s.crc := rfl
@[simp] theorem responseTaken_pending (s : State) : (responseTaken s).pending = s.pending := rfl
@[simp] theorem responseTaken_moves (s : State) : (responseTaken s).moves = s.moves := rfl
@[simp] theorem responseTaken_taken (s : State) : (responseTaken s).taken = s.taken ++ [s.rsp] := rfl
@[simp] theorem responseTaken_fresh (s : State) : (responseTaken s).fresh = s.fresh + 1 := rfl

@[simp] theorem blockReset_phase (s : State) : (blockReset s).phase = .idle := rfl
@[simp] theorem blockReset_crc (s : State) : (blockReset s).crc = 0xFF#8 := rfl
@[simp] theorem blockReset_pending (s : State) : (blockReset s).pending = s.pending := rfl
@[simp] theorem blockReset_moves (s : State) : (blockReset s).moves = s.moves := rfl
@[simp] theorem blockReset_taken (s : State) : (blockReset s).taken = s.taken := rfl
@[simp] theorem blockReset_fresh (s : State) : (blockReset s).fresh = s.fresh + 1 := rfl

@[simp] theorem okResponse_st (q : List Byte) : (okResponse q).st = 0x00#8 := rfl
@[simp] theorem okResponse_q (q : List Byte) : (okResponse q).q = q := rfl
@[simp] theorem errorResponse_st (e : Status) : (errorResponse e).st = statusCode e := rfl
@[simp] theorem errorResponse_q (e : Status) : (errorResponse e).q = [] := rfl

/-- Whatever `RSP` holds while it is unspecified, it is at most 5 bytes (10_state.md R16 table). -/
theorem freeResponse_m_le (n : Nat) : (freeResponse n).m ≤ Config.mMax := by
  simp only [freeResponse, Response.m, List.length_take]
  exact Nat.min_le_left _ _

@[simp] theorem responseTaken_rsp_m_le (s : State) : (responseTaken s).rsp.m ≤ Config.mMax :=
  freeResponse_m_le s.fresh

@[simp] theorem blockReset_rsp_m_le (s : State) : (blockReset s).rsp.m ≤ Config.mMax :=
  freeResponse_m_le s.fresh

end Sys2Proof.Machine
end

