-- ==== Sys2Proof/Laws/Ops.lean ====
section
/-! SUPPORT. For each shared operation, once, everything it can do: deliver, raise, computeCrc, takeResponse,
andThen; then what any meaning can do (`exec_next`), and what an attempted move can do. -/

namespace Sys2Proof.Machine

theorem deliver_idle {s : State} (h : s.phase = .idle) (r : Response) : deliver r s = .next (answered r s) := by
  simp [deliver, h]

theorem deliver_done {s : State} (h : s.phase = .done) (r : Response) : deliver r s = .fault .issueNotEnabled := by
  simp [deliver, h]

/-- Delivering a response answers a next state exactly in `phase = IDLE` (10_state.md R12). -/
theorem deliver_next {r : Response} {s t : State} (h : deliver r s = .next t) :
    s.phase = .idle ∧ t = answered r s := by
  cases hp : s.phase with
  | idle => rw [deliver_idle hp] at h; exact ⟨rfl, (Host.Outcome.next.inj h).symm⟩
  | done => rw [deliver_done hp] at h; cases h

theorem deliver_not_refused (r : Response) (s : State) (e : Refusal) : deliver r s ≠ .refused e := by
  cases hp : s.phase with
  | idle => rw [deliver_idle hp]; exact nofun
  | done => rw [deliver_done hp]; exact nofun

theorem raise_idle {s : State} (h : s.phase = .idle) (e : Status) :
    raise e s = .next (answered (errorResponse e) s) := deliver_idle h _

@[simp] theorem computeCrc_eq (b0 b1 : Byte) (s : State) : computeCrc b0 b1 s = (crc8 b0 b1, crcReleased s) := rfl

theorem takeResponse_done {s : State} (h : s.phase = .done) : takeResponse s = .next (responseTaken s) := by
  simp [takeResponse, h]

theorem takeResponse_idle {s : State} (h : s.phase = .idle) : takeResponse s = .fault .takeNotEnabled := by
  simp [takeResponse, h]

@[simp] theorem andThen_next {α β : Type} (a : α) (k : α → Host.Outcome β Fault Refusal) :
    andThen (.next a) k = k a := rfl

/-- What `andThen` can do to reach a next state. -/
theorem andThen_eq_next {α β : Type} {o : Host.Outcome α Fault Refusal} {k : α → Host.Outcome β Fault Refusal} {b : β}
    (h : andThen o k = .next b) : ∃ a, o = .next a ∧ k a = .next b := by
  cases o with
  | next a => exact ⟨a, rfl, h⟩
  | fault f => cases h
  | refused r => cases h

/-- The states a meaning with response `r` can leave, with or without a use of the CRC unit. -/
def leaves (r : Response) (s t : State) : Prop := t = answered r s ∨ t = answered r (crcReleased s)

theorem commandWithoutArgument_cases (wop : Half) (d : List Byte) (s : State) :
    ∃ r, responseLegal r = true ∧ commandWithoutArgument wop d s = deliver r s := by
  unfold commandWithoutArgument
  split
  · exact ⟨_, rfl, rfl⟩
  · exact ⟨_, rfl, rfl⟩

theorem commandWithArgument_cases (wop : Half) (d : List Byte) (s : State) :
    ∃ r, responseLegal r = true ∧
      (commandWithArgument wop d s = deliver r s ∨ commandWithArgument wop d s = deliver r (crcReleased s)) := by
  unfold commandWithArgument
  split
  · exact ⟨_, rfl, .inr rfl⟩
  · exact ⟨_, rfl, .inl rfl⟩

/-- Everything a meaning can do: it delivers a legal response, with or without a use of the CRC unit. -/
theorem exec_cases (i : Instr) (s : State) :
    ∃ r, responseLegal r = true ∧ (exec i s = deliver r s ∨ exec i s = deliver r (crcReleased s)) := by
  cases i with
  | crc8 d =>
    simp only [exec, execCrc8]
    split
    · exact ⟨_, rfl, .inr rfl⟩
    · exact ⟨_, rfl, .inl rfl⟩
  | validate d =>
    simp only [exec, execValidate]
    split
    · exact ⟨_, rfl, .inr rfl⟩
    · exact ⟨_, rfl, .inl rfl⟩
  | fdec d =>
    simp only [exec, execFdec]
    split
    · exact ⟨_, rfl, .inl rfl⟩
    · exact ⟨_, rfl, .inl rfl⟩
  | cmdStart d => exact commandWithArgument_cases wopStart d s
  | cmdSetint d => exact commandWithArgument_cases wopInterval d s
  | cmdStop d => obtain ⟨r, hr, h⟩ := commandWithoutArgument_cases wopStop d s; exact ⟨r, hr, .inl h⟩
  | cmdRdy d => obtain ⟨r, hr, h⟩ := commandWithoutArgument_cases wopReady d s; exact ⟨r, hr, .inl h⟩
  | cmdRead d => obtain ⟨r, hr, h⟩ := commandWithoutArgument_cases wopRead d s; exact ⟨r, hr, .inl h⟩
  | cmdGetint d => obtain ⟨r, hr, h⟩ := commandWithoutArgument_cases wopInterval d s; exact ⟨r, hr, .inl h⟩
  | cmdAsc d => obtain ⟨r, hr, h⟩ := commandWithoutArgument_cases wopAsc d s; exact ⟨r, hr, .inl h⟩
  | cmdReset d => obtain ⟨r, hr, h⟩ := commandWithoutArgument_cases wopReset d s; exact ⟨r, hr, .inl h⟩
  | cmdFwver d => obtain ⟨r, hr, h⟩ := commandWithoutArgument_cases wopFwver d s; exact ⟨r, hr, .inl h⟩

/-- What a meaning leaves when it answers a next state. -/
theorem exec_next {i : Instr} {s t : State} (h : exec i s = .next t) :
    s.phase = .idle ∧ ∃ r, responseLegal r = true ∧ leaves r s t := by
  obtain ⟨r, hr, he | he⟩ := exec_cases i s
  · rw [he] at h
    obtain ⟨hp, rfl⟩ := deliver_next h
    exact ⟨hp, r, hr, .inl rfl⟩
  · rw [he] at h
    obtain ⟨hp, rfl⟩ := deliver_next h
    exact ⟨hp, r, hr, .inr rfl⟩

theorem attemptIssue_held {s : State} (h : s.phase = .done) : attemptIssue s = .next s := by
  simp [attemptIssue, h]

theorem attemptTake_held {s : State} (h : s.phase = .idle) : attemptTake s = .next s := by
  simp [attemptTake, h]

theorem attemptTake_done {s : State} (h : s.phase = .done) : attemptTake s = .next (responseTaken s) := by
  simp [attemptTake, h, takeResponse_done h]

theorem attemptIssue_idle {s : State} {r : Request} {rs : List Request} (h : s.phase = .idle)
    (hp : s.pending = r :: rs) : attemptIssue s = issueRequest r { s with pending := rs } := by
  simp [attemptIssue, h, hp]

/-- What an attempted issue can do when it answers a next state: it is held, there is nothing to issue, or the next
request is answered. -/
theorem attemptIssue_next {s t : State} (h : attemptIssue s = .next t) :
    t = s ∨ ∃ r rs q, s.phase = .idle ∧ s.pending = r :: rs ∧ r.wf = true ∧ responseLegal q = true ∧
      leaves q { s with pending := rs } t := by
  unfold attemptIssue at h
  split at h
  · rename_i r rs hp hpe
    unfold issueRequest at h
    split at h
    · rename_i hw
      split at h
      · obtain ⟨-, q, hq, hl⟩ := exec_next h
        exact .inr ⟨r, rs, q, hp, hpe, hw, hq, hl⟩
      · obtain ⟨-, ht⟩ := deliver_next h
        exact .inr ⟨r, rs, _, hp, hpe, hw, rfl, .inl ht⟩
    · cases h
  · exact .inl (Host.Outcome.next.inj h).symm
  · exact .inl (Host.Outcome.next.inj h).symm

/-- What an attempted take can do: it is not enabled, or the response is taken. -/
theorem attemptTake_next {s t : State} (h : attemptTake s = .next t) :
    t = s ∨ (s.phase = .done ∧ t = responseTaken s) := by
  cases hp : s.phase with
  | idle => rw [attemptTake_held hp] at h; exact .inl (Host.Outcome.next.inj h).symm
  | done => rw [attemptTake_done hp] at h; exact .inr ⟨rfl, (Host.Outcome.next.inj h).symm⟩

end Sys2Proof.Machine
end

