-- ==== Sys2Proof/Laws/PerInstr.lean ====
section
/-! SUPPORT. Statements about every instruction as syntax, one lemma per constructor. -/

namespace Sys2Proof.Laws.RequestRoundTrip

/-- The request that asks for an instruction selects it again, with every operand byte (30_encoding.md R32). -/
def Statement (i : Instr) : Prop := decodeRequest i.request = .ok i

theorem crc8 (d : List Byte) : Statement (.crc8 d) := rfl
theorem validate (d : List Byte) : Statement (.validate d) := rfl
theorem fdec (d : List Byte) : Statement (.fdec d) := rfl
theorem cmdStart (d : List Byte) : Statement (.cmdStart d) := rfl
theorem cmdStop (d : List Byte) : Statement (.cmdStop d) := rfl
theorem cmdRdy (d : List Byte) : Statement (.cmdRdy d) := rfl
theorem cmdRead (d : List Byte) : Statement (.cmdRead d) := rfl
theorem cmdGetint (d : List Byte) : Statement (.cmdGetint d) := rfl
theorem cmdSetint (d : List Byte) : Statement (.cmdSetint d) := rfl
theorem cmdAsc (d : List Byte) : Statement (.cmdAsc d) := rfl
theorem cmdReset (d : List Byte) : Statement (.cmdReset d) := rfl
theorem cmdFwver (d : List Byte) : Statement (.cmdFwver d) := rfl

end Sys2Proof.Laws.RequestRoundTrip
end

