-- ==== Sys2Proof/Laws/Step.lean ====
section
/-! SUPPORT. What one step of the machine can do, said once. -/

namespace Sys2Proof.Machine

theorem step_waiting {s : State} (h : s.moves = []) : step s = .next s := by
  simp [step, h]

theorem step_move {s : State} {m : Move} {ms : List Move} (h : s.moves = m :: ms) :
    step s = attemptMove m { s with moves := ms } := by
  simp [step, h]

/-- Everything a step can do when it answers a next state: nobody moves; a move that is not enabled, or with nothing
to issue, is passed over; a request is answered; a response is taken; the block is reset. -/
theorem step_cases {s t : State} (h : step s = .next t) :
    (s.moves = [] ∧ t = s) ∨
    ∃ m ms, s.moves = m :: ms ∧
      (t = { s with moves := ms } ∨
       (∃ r rs q, m = .issue ∧ s.phase = .idle ∧ s.pending = r :: rs ∧ r.wf = true ∧ responseLegal q = true ∧
          leaves q { s with moves := ms, pending := rs } t) ∨
       (m = .take ∧ s.phase = .done ∧ t = responseTaken { s with moves := ms }) ∨
       (m = .reset ∧ t = blockReset { s with moves := ms })) := by
  cases hm : s.moves with
  | nil => rw [step_waiting hm] at h; exact .inl ⟨rfl, (Host.Outcome.next.inj h).symm⟩
  | cons m ms =>
    rw [step_move hm] at h
    refine .inr ⟨m, ms, rfl, ?_⟩
    cases m with
    | issue =>
      obtain rfl | ⟨r, rs, q, h1, h2, h3, h4, h5⟩ := attemptIssue_next h
      · exact .inl rfl
      · exact .inr (.inl ⟨r, rs, q, rfl, h1, h2, h3, h4, h5⟩)
    | take =>
      obtain rfl | ⟨h1, rfl⟩ := attemptTake_next h
      · exact .inl rfl
      · exact .inr (.inr (.inl ⟨rfl, h1, rfl⟩))
    | reset => exact .inr (.inr (.inr ⟨rfl, (Host.Outcome.next.inj h).symm⟩))

/-- One more step of a run whose first step answers a next state. -/
theorem run_succ {s t : State} (k : Nat) (h : step s = .next t) :
    Host.Core.run Sys2Proof.core (k + 1) s = Host.Core.run Sys2Proof.core k t := by
  have : Sys2Proof.core.step s = .next t := h
  simp only [Host.Core.run, this]

@[simp] theorem run_zero (s : State) : Host.Core.run Sys2Proof.core 0 s = .next s := rfl

end Sys2Proof.Machine
end

