-- ==== Sys2Proof/Laws/WellFormed.lean ====
section
/-! SUPPORT. What well-formedness says, as a bound on the operand count (10_state.md R11). -/

namespace Sys2Proof

theorem operandsFit_iff (d : List Byte) : operandsFit d = true ↔ d.length ≤ 255 := by
  unfold operandsFit
  exact decide_eq_true_iff

theorem Request.wf_iff (r : Request) : r.wf = true ↔ r.n ≤ 255 := operandsFit_iff r.d

theorem Instr.request_wf (i : Instr) : i.request.wf = i.wf := rfl

/-- An operand count of at most `N_MAX` survives the one-byte count field (30_encoding.md R30). -/
theorem count_toNat {d : List Byte} (h : operandsFit d = true) : (BitVec.ofNat 8 d.length).toNat = d.length := by
  have := (operandsFit_iff d).1 h
  simp only [BitVec.toNat_ofNat]
  omega

/-- The operand bytes of a request that a table word spells always fit: the count field is one byte. -/
theorem tableRequest_wf (nbits w : Nat) : (tableRequest nbits w).wf = true := by
  rw [Request.wf_iff]
  have := (tableByte nbits w 1).isLt
  simp only [Request.n, tableRequest, List.length_map, List.length_range]
  omega

end Sys2Proof
end

