-- ==== Sys2Proof/Tests/Slice0.lean ====
section
/-! SUPPORT. The model's own tests. Expected values are the spec's: 95_test_vectors.md (V and P numbers), the worked
examples of the operation rules, and the encodings of 30_encoding.md R30, R32 written out bit by bit. Then one
witness for the hypotheses of every statement of Certificates/Slice0/Obligations.lean. -/

namespace Sys2Proof.Tests

open Sys2Proof.Machine

/-! ### Helpers -/

/-- The response in `RSP` after an outcome, if it is a next state. -/
def rspOf (o : Result) : Option Response :=
  match o with
  | .next t => some t.rsp
  | _ => none

/-- The refusal an outcome is, if it is one. -/
def refusalOf (o : Result) : Option Refusal :=
  match o with
  | .refused r => some r
  | _ => none

/-- A state in DONE with V21's response waiting. -/
def waiting : State := { State.reset with phase := .done, rsp := ⟨0x00#8, [0x92#8]⟩ }

/-- A state with one request to issue and the given moves. -/
def loaded (r : Request) (ms : List Move) : State := { State.reset with pending := [r], moves := ms }

/-- What the host has taken after `k` steps. -/
def takenAfter (k : Nat) (s : State) : Option (List Response) :=
  match Host.Core.run Sys2Proof.core k s with
  | .next t => some t.taken
  | _ => none

/-! ### Well-formedness: the ill-formed terms are refused -/

theorem test_wf_instr_too_long : (Instr.crc8 (List.replicate 256 0#8)).wf = false := by decide +kernel
theorem test_wf_instr_longest : (Instr.fdec (List.replicate 255 0#8)).wf = true := by decide +kernel
theorem test_wf_request_too_long : (Request.mk 0x10#8 (List.replicate 256 0#8)).wf = false := by decide +kernel
theorem test_wf_wrong_count_is_wellformed : (Instr.cmdStop [0#8]).wf = true := by decide

/-! ### Decoding: words written out from 30_encoding.md R30, R32 -/

theorem test_decode_crc8 : decode [0b00000001#8, 0b00000010#8, 0xBE#8, 0xEF#8] = .ok (.crc8 [0xBE#8, 0xEF#8]) := by
  decide
theorem test_decode_validate :
    decode [0b00000010#8, 0b00000011#8, 1#8, 2#8, 3#8] = .ok (.validate [1#8, 2#8, 3#8]) := by decide
theorem test_decode_fdec :
    decode [0b00010000#8, 0b00000100#8, 1#8, 2#8, 3#8, 4#8] = .ok (.fdec [1#8, 2#8, 3#8, 4#8]) := by decide
theorem test_decode_cmdStart : decode [0b00100000#8, 0b00000010#8, 3#8, 0xB0#8] = .ok (.cmdStart [3#8, 0xB0#8]) := by
  decide
theorem test_decode_cmdStop : decode [0b00100001#8, 0#8] = .ok (.cmdStop []) := by decide
theorem test_decode_cmdRdy : decode [0b00100010#8, 0#8] = .ok (.cmdRdy []) := by decide
theorem test_decode_cmdRead : decode [0b00100011#8, 0#8] = .ok (.cmdRead []) := by decide
theorem test_decode_cmdGetint : decode [0b00100100#8, 0#8] = .ok (.cmdGetint []) := by decide
theorem test_decode_cmdSetint : decode [0b00100101#8, 2#8, 0#8, 0x78#8] = .ok (.cmdSetint [0#8, 0x78#8]) := by decide
theorem test_decode_cmdAsc : decode [0b00100110#8, 0#8] = .ok (.cmdAsc []) := by decide
theorem test_decode_cmdReset : decode [0b00100111#8, 0#8] = .ok (.cmdReset []) := by decide
theorem test_decode_cmdFwver : decode [0b00101000#8, 0#8] = .ok (.cmdFwver []) := by decide
theorem test_decode_unassigned : decode [0x29#8, 0#8] = .error (.unassigned 0x29#8) := by decide
theorem test_decode_empty : decode [] = .error .noSelector := by decide
theorem test_decode_no_count : decode [0x21#8] = .error .noCount := by decide
theorem test_decode_count_mismatch : decode [0x21#8, 1#8] = .error (.countMismatch 1 0) := by decide
theorem test_decodeTableWord_op_only : decodeTableWord 8 0x27 = some (.cmdReset []) := by decide
theorem test_decodeTableWord_operands : decodeTableWord 32 0xEFBE0201 = some (.crc8 [0xBE#8, 0xEF#8]) := by decide
theorem test_decodeTableWord_unassigned : decodeTableWord 8 0x00 = none := by decide

/-! ### The operations (95_test_vectors.md) -/

/-- V1, the document's check value. -/
theorem test_crc8_BE_EF : rspOf (exec (.crc8 [0xBE#8, 0xEF#8]) State.reset) = some ⟨0x00#8, [0x92#8]⟩ := by
  decide +kernel
/-- V5. -/
theorem test_crc8_three_bytes :
    rspOf (exec (.crc8 [0xBE#8, 0xEF#8, 0x92#8]) State.reset) = some ⟨0x01#8, []⟩ := by decide
/-- V3. -/
theorem test_validate_true :
    rspOf (exec (.validate [0x00#8, 0x01#8, 0xB0#8]) State.reset) = some ⟨0x00#8, [0x01#8]⟩ := by decide +kernel
/-- V3: a failed check is a result with status OK. -/
theorem test_validate_false :
    rspOf (exec (.validate [0xBE#8, 0xEF#8, 0x93#8]) State.reset) = some ⟨0x00#8, [0x00#8]⟩ := by decide +kernel
/-- V7: the first four of six bytes. -/
theorem test_fdec_surplus :
    rspOf (exec (.fdec [0x43#8, 0xC8#8, 0xDB#8, 0x00#8, 0x00#8, 0x81#8]) State.reset) =
      some ⟨0x00#8, [0x43#8, 0xC8#8, 0xDB#8, 0x00#8]⟩ := by decide
/-- V7. -/
theorem test_fdec_three_bytes : rspOf (exec (.fdec [0x43#8, 0xC8#8, 0x00#8]) State.reset) = some ⟨0x02#8, []⟩ := by
  decide
/-- V9. -/
theorem test_cmdStart_944 : rspOf (exec (.cmdStart [0x03#8, 0xB0#8]) State.reset) =
    some ⟨0x00#8, [0x00#8, 0x10#8, 0x03#8, 0xB0#8, 0x13#8]⟩ := by decide +kernel
/-- V19: no fallback to a 2-byte frame. -/
theorem test_cmdStart_no_operand : rspOf (exec (.cmdStart []) State.reset) = some ⟨0x01#8, []⟩ := by decide
/-- V10. -/
theorem test_cmdStop : rspOf (exec (.cmdStop []) State.reset) = some ⟨0x00#8, [0x01#8, 0x04#8]⟩ := by decide
/-- V11. -/
theorem test_cmdRdy : rspOf (exec (.cmdRdy []) State.reset) = some ⟨0x00#8, [0x02#8, 0x02#8]⟩ := by decide
/-- V12. -/
theorem test_cmdRead : rspOf (exec (.cmdRead []) State.reset) = some ⟨0x00#8, [0x03#8, 0x00#8]⟩ := by decide
/-- V13. -/
theorem test_cmdGetint : rspOf (exec (.cmdGetint []) State.reset) = some ⟨0x00#8, [0x46#8, 0x00#8]⟩ := by decide
/-- V19. -/
theorem test_cmdGetint_with_argument : rspOf (exec (.cmdGetint [0x00#8, 0x78#8]) State.reset) = some ⟨0x01#8, []⟩ := by
  decide
/-- V18. -/
theorem test_cmdSetint_1800 : rspOf (exec (.cmdSetint [0x07#8, 0x08#8]) State.reset) =
    some ⟨0x00#8, [0x46#8, 0x00#8, 0x07#8, 0x08#8, 0x96#8]⟩ := by decide +kernel
/-- V15. -/
theorem test_cmdAsc : rspOf (exec (.cmdAsc []) State.reset) = some ⟨0x00#8, [0x53#8, 0x06#8]⟩ := by decide
/-- V16. -/
theorem test_cmdReset : rspOf (exec (.cmdReset []) State.reset) = some ⟨0x00#8, [0xD3#8, 0x04#8]⟩ := by decide
/-- V17. -/
theorem test_cmdFwver : rspOf (exec (.cmdFwver []) State.reset) = some ⟨0x00#8, [0xD1#8, 0x00#8]⟩ := by decide
/-- V20: the operand count plays no part. -/
theorem test_unassigned : rspOf (issueRequest ⟨0x00#8, [0x01#8, 0x02#8]⟩ State.reset) = some ⟨0x03#8, []⟩ := by decide

/-! ### The handshake (95_test_vectors.md V21) and the host's procedures -/

theorem test_issue_in_done_is_held :
    step { waiting with moves := [.issue], pending := [⟨0x21#8, []⟩] } =
      .next { waiting with pending := [⟨0x21#8, []⟩] } := rfl
theorem test_take_in_idle_changes_nothing : step { State.reset with moves := [.take] } = .next State.reset := rfl
theorem test_take_observes : takenAfter 1 { waiting with moves := [.take] } = some [⟨0x00#8, [0x92#8]⟩] := by decide
theorem test_reset_loses_the_response : takenAfter 2 { waiting with moves := [.reset, .take] } = some [] := by decide
theorem test_overlong_item_is_refused :
    refusalOf (step (loaded ⟨0x21#8, List.replicate 256 0#8⟩ [.issue])) = some .notARequest := by decide +kernel
/-- P6, steps 1 and 5: an error does not disturb what follows. -/
theorem test_error_then_result :
    takenAfter 4 { State.reset with
        pending := [⟨0x01#8, [0xBE#8, 0xEF#8, 0x92#8]⟩, ⟨0x01#8, [0xBE#8, 0xEF#8]⟩],
        moves := [.issue, .take, .issue, .take] } =
      some [⟨0x01#8, []⟩, ⟨0x00#8, [0x92#8]⟩] := by decide +kernel
theorem test_withFetchWord_runs : rspOf (step (State.reset.withFetchWord 8 0x28)) = some ⟨0x00#8, [0xD1#8, 0x00#8]⟩ := by
  decide

/-- What a host procedure reports. -/
def reportOf {α : Type} (o : Host.Outcome (HostReport α × Session) Fault Refusal) : Option (HostReport α) :=
  match o with
  | .next p => some p.1
  | _ => none

/-- The 18-byte answer of P3. -/
def answerP3 : Vector Byte 18 :=
  #v[0x43#8, 0xE1#8, 0xD5#8, 0x00#8, 0x00#8, 0x81#8, 0x41#8, 0xAA#8, 0xDB#8,
     0x66#8, 0x66#8, 0x93#8, 0x42#8, 0x20#8, 0x57#8, 0x00#8, 0x00#8, 0x81#8]

/-- V8: one bad word, no FDEC. -/
theorem test_fdecw_bad_word :
    reportOf (fdecw ⟨0x43#8, 0xC8#8, 0xDB#8⟩ ⟨0x00#8, 0x00#8, 0x80#8⟩ ⟨[], State.reset⟩) = some .checksumError := by
  decide +kernel
/-- P3. -/
theorem test_mdec_P3 :
    reportOf (mdec answerP3 ⟨[], State.reset⟩) =
      some (.delivered ⟨[0x43#8, 0xE1#8, 0x00#8, 0x00#8], [0x41#8, 0xAA#8, 0x66#8, 0x66#8],
        [0x42#8, 0x20#8, 0x00#8, 0x00#8]⟩) := by decide +kernel
/-- P4: byte 9 arrives as 67. -/
theorem test_mdec_P4 : reportOf (mdec (answerP3.set 9 0x67#8) ⟨[], State.reset⟩) = some .checksumError := by
  decide +kernel
/-- R42: CMD_START 03 is one operand byte (V19), CMD_START 944 is a number. -/
theorem test_read_one_byte : readRequest ["CMD_START", "03"] = some (.cmdStart [0x03#8]) := by decide +kernel
theorem test_write_response : writeResponse ⟨0x00#8, [0x92#8]⟩ = some ["OK", "92"] := by decide +kernel

/-! ### Witnesses: for every statement with hypotheses, a state and operands that meet them -/

theorem witness_ResetEventReturnsBlockToIdle :
    ({ waiting with moves := [.reset, .take] } : State).moves = .reset :: [.take] ∧
      (Request.mk 0x01#8 [0xBE#8, 0xEF#8]).wf = true := by decide
theorem witness_HandshakeAlternatesIssueAndTake_issue :
    let s := loaded ⟨0x01#8, [0xBE#8, 0xEF#8]⟩ [.issue, .take]
    s.moves = .issue :: [.take] ∧ s.phase = .idle ∧ s.pending = ⟨0x01#8, [0xBE#8, 0xEF#8]⟩ :: [] ∧
      (Request.mk 0x01#8 [0xBE#8, 0xEF#8]).wf = true := by decide
theorem witness_HandshakeAlternatesIssueAndTake_take :
    let s := { waiting with moves := [.take] }
    s.moves = .take :: [] ∧ s.phase = .done := by decide
theorem witness_HandshakeAlternatesIssueAndTake_issueHeld :
    let s := { waiting with moves := [.issue] }
    s.moves = .issue :: [] ∧ s.phase = .done := by decide
theorem witness_HandshakeAlternatesIssueAndTake_takeHeld :
    let s := { State.reset with moves := [.take] }
    s.moves = .take :: [] ∧ s.phase = .idle := by decide
theorem witness_HostThatDoesNotTakeIsHeldForever :
    let s := { waiting with moves := [.issue, .issue], pending := [⟨0x21#8, []⟩] }
    s.phase = .done ∧ ∀ m ∈ s.moves, m = .issue := by decide
theorem witness_DisabledStepsStopByName : waiting.phase = .done ∧ State.reset.phase = .idle := by decide
theorem witness_StepRunsTheDecodedInstruction :
    let r := Request.mk 0x20#8 [0x03#8, 0xB0#8]
    let s := loaded r [.issue]
    s.phase = .idle ∧ s.moves = .issue :: [] ∧ s.pending = r :: [] ∧ r.wf = true ∧
      decode r.bytes = .ok (.cmdStart [0x03#8, 0xB0#8]) := by decide
theorem witness_PlacedTableWordRunsNext : decodeTableWord 8 0x28 = some (.cmdFwver []) := by decide
theorem witness_DecodeOfEncodeIsTheInstruction :
    (Instr.cmdStop []).wf = true ∧ (Instr.fdec (List.replicate 255 0xAA#8)).wf = true := by decide +kernel
theorem witness_EncodeOfDecodeIsTheBytes : decode [0x21#8, 0x00#8] = .ok (.cmdStop []) := by decide
theorem witness_RequestLengthIsItsCountPlusTwo :
    parseRequest [0x29#8, 0x01#8, 0x05#8] = .ok ⟨0x29#8, [0x05#8]⟩ := by decide
/-- For IssueFollowsTheOperationMap, ResponseFormatIsLegal, EachErrorHasItsCause and
ErrorsChangeNothingButTheHandshake: a result, a wrong count, an unassigned selector. -/
theorem witness_issue_any_request :
    (Request.mk 0x01#8 [0xBE#8, 0xEF#8]).wf = true ∧ (Request.mk 0x10#8 [0x43#8, 0xC8#8, 0x00#8]).wf = true ∧
      (Request.mk 0x29#8 []).wf = true ∧ State.reset.phase = .idle := by decide
theorem witness_ErrorsChangeNothingButTheHandshake :
    rspOf (issueRequest ⟨0x10#8, [0x43#8, 0xC8#8, 0x00#8]⟩ State.reset) = some ⟨0x02#8, []⟩ ∧
      (0x02#8 : Byte) ≠ 0x00#8 := by decide
theorem witness_ResponseDependsOnRequestAlone :
    (Request.mk 0x01#8 [0xBE#8, 0xEF#8]).wf = true ∧ State.reset.phase = .idle ∧
      ({ State.reset with crc := 0x00#8, taken := [⟨0x03#8, []⟩] } : State).phase = .idle := by decide
theorem witness_OnlyNamedOperandBytesAreRead :
    let r := Request.mk 0x10#8 [1#8, 2#8, 3#8, 4#8, 5#8]
    let r' := Request.mk 0x10#8 [1#8, 2#8, 3#8, 4#8, 6#8]
    r.wf = true ∧ r'.wf = true ∧ State.reset.phase = .idle ∧ r.op = r'.op ∧ r.n = r'.n ∧ r ≠ r' ∧
      r.d.take 4 = r'.d.take 4 := by decide
theorem witness_OnlyNamedOperandBytesAreRead_two :
    let r := Request.mk 0x20#8 [1#8, 2#8, 3#8]
    let r' := Request.mk 0x20#8 [1#8, 2#8, 4#8]
    r.wf = true ∧ r'.wf = true ∧ r.op = r'.op ∧ r.n = r'.n ∧ r ≠ r' ∧
      r.op ∈ [0x01#8, 0x20#8, 0x25#8] ∧ r.d.take 2 = r'.d.take 2 := by decide
theorem witness_OnlyNamedOperandBytesAreRead_three :
    let r := Request.mk 0x02#8 [1#8, 2#8, 3#8, 4#8]
    let r' := Request.mk 0x02#8 [1#8, 2#8, 3#8, 5#8]
    r.wf = true ∧ r'.wf = true ∧ r.op = r'.op ∧ r.n = r'.n ∧ r ≠ r' ∧ r.op = 0x02#8 ∧
      r.d.take 3 = r'.d.take 3 := by decide
theorem witness_OnlyNamedOperandBytesAreRead_none :
    let r := Request.mk 0x27#8 [1#8]
    let r' := Request.mk 0x27#8 [2#8]
    r.wf = true ∧ r'.wf = true ∧ r.op = r'.op ∧ r.n = r'.n ∧ r ≠ r' ∧
      r.op ∈ [0x21#8, 0x22#8, 0x23#8, 0x24#8, 0x26#8, 0x27#8, 0x28#8] := by decide
theorem witness_UnassignedSelectorsAnswerIllegalOperation :
    let r := Request.mk 0x29#8 [0x01#8]
    r.wf = true ∧ State.reset.phase = .idle ∧
      r.op ∉ [0x01#8, 0x02#8, 0x10#8, 0x20#8, 0x21#8, 0x22#8, 0x23#8, 0x24#8, 0x25#8, 0x26#8, 0x27#8, 0x28#8] := by
  decide
theorem witness_Crc8ComputesTheChecksum :
    State.reset.phase = .idle ∧ ([0xBE#8] : List Byte).length ≠ 2 ∧ ([1#8, 2#8, 3#8] : List Byte).length ≠ 2 := by
  decide
theorem witness_ValidateChecksTheWord :
    State.reset.phase = .idle ∧ ([1#8, 2#8] : List Byte).length ≠ 3 ∧
      ([1#8, 2#8, 3#8, 4#8] : List Byte).length ≠ 3 := by decide
/-- For the statements whose one hypothesis is `phase = IDLE`: CheckValueAndValidateAgreeWithTheSource,
EveryPatternPassesBitForBit, CmdIntervalExpands, FdecwDeliversOnlyValidatedPayload, MdecIsAllOrNothing and
FloatDecodeRoundTrips (the session's state). -/
theorem witness_idle : State.reset.phase = .idle ∧ (Session.mk [] State.reset).state.phase = .idle := by decide
theorem witness_UpToThreeInvertedBitsAreDetected :
    State.reset.phase = .idle ∧ crc8 0xBE#8 0xEF#8 = 0x92#8 ∧ weight 0x010101#24 = 3 ∧ weight 0x800000#24 = 1 := by
  decide +kernel
theorem witness_OddNumbersOfInvertedBitsAreDetected :
    State.reset.phase = .idle ∧ crc8 0xBE#8 0xEF#8 = 0x92#8 ∧ weight 0xF80000#24 % 2 = 1 := by decide +kernel
theorem witness_UndetectedChangesAreTheCodewords : crc8 0x00#8 0x00#8 = 0x81#8 := by decide +kernel
theorem witness_FdecAssemblesFourBytes : State.reset.phase = .idle ∧ ([1#8, 2#8, 3#8] : List Byte).length < 4 := by
  decide
theorem witness_CommandsWithArgumentReturnTheirFrame :
    State.reset.phase = .idle ∧ ([] : List Byte).length ≠ 2 ∧ ([3#8, 0xB0#8, 0x13#8] : List Byte).length ≠ 2 := by
  decide
/-- For CommandsWithoutArgumentReturnTheirOpcode, FrameArgumentIsAValidRawWord and
ArgumentStandsUnchangedInTheFrame: the quantified constructors. -/
theorem witness_constructor_lists :
    State.reset.phase = .idle ∧ ([0#8] : List Byte) ≠ [] ∧
      Instr.cmdFwver ∈ [Instr.cmdStop, .cmdRdy, .cmdRead, .cmdGetint, .cmdAsc, .cmdReset, .cmdFwver] ∧
      Instr.cmdSetint ∈ [Instr.cmdStart, .cmdSetint] := by
  simp [State.reset]
theorem witness_EncoderEmitsOnlyTheEightOpcodes :
    ∃ t u, 0x20#8 ≤ (Instr.cmdStart [0x03#8, 0xB0#8]).op ∧
      (Instr.cmdStart [0x03#8, 0xB0#8]).op = (Instr.cmdStart [0x00#8, 0x00#8]).op ∧
      exec (.cmdStart [0x03#8, 0xB0#8]) State.reset = .next t ∧ exec (.cmdStart [0x00#8, 0x00#8]) State.reset = .next u ∧
      t.rsp.st = 0x00#8 ∧ u.rsp.st = 0x00#8 :=
  ⟨_, _, by decide, rfl, rfl, rfl, rfl, rfl⟩
theorem witness_FrameReaderTellsTheFormat :
    ∃ t, 0x20#8 ≤ (Instr.cmdFwver []).op ∧ exec (.cmdFwver []) State.reset = .next t ∧ t.rsp.st = 0x00#8 :=
  ⟨_, by decide, rfl, rfl⟩
theorem witness_OperationsChangeOnlyTheHandshakeAndCrc :
    ∃ t, exec (.fdec [1#8, 2#8, 3#8, 4#8]) State.reset = .next t ∧
      ¬ ((Instr.fdec [1#8, 2#8, 3#8, 4#8]).op ∈ [0x01#8, 0x02#8, 0x20#8, 0x25#8] ∧ t.rsp.st = 0x00#8) :=
  ⟨_, rfl, by decide⟩
theorem witness_EveryStepKeepsTheInvariant :
    ∃ t, step { waiting with moves := [.take], taken := [⟨0x01#8, []⟩], pending := [⟨0x21#8, []⟩] } = .next t ∧
      State.Inv { waiting with moves := [.take], taken := [⟨0x01#8, []⟩], pending := [⟨0x21#8, []⟩] } :=
  ⟨_, rfl, by unfold State.Inv; decide⟩
theorem witness_EveryResponseIsTheFunctionOfARequest :
    ∃ t, step { waiting with moves := [.take] } = .next t ∧ State.Explained { waiting with moves := [.take] } :=
  ⟨_, rfl, fun _ => ⟨Request.mk 0x01#8 [0xBE#8, 0xEF#8], by decide, by decide +kernel⟩, nofun⟩
theorem witness_RunsNeverStop : State.Inv waiting := by unfold State.Inv; decide
theorem witness_RequestsAreAnsweredInIssueOrder :
    let rs := [Request.mk 0x27#8 [], Request.mk 0x00#8 [1#8]]
    let s := { State.reset with
      pending := rs ++ [Request.mk 0x28#8 []], moves := [Move.issue, .take, .issue, .take, .reset] }
    s.phase = .idle ∧ (∀ r ∈ rs, Request.wf r = true) ∧ s.pending = rs ++ [Request.mk 0x28#8 []] ∧
      s.moves = (rs.flatMap fun _ => [Move.issue, Move.take]) ++ [.reset] := by decide
theorem witness_FdecwDeliversOnlyValidatedPayload :
    (crc8 0x43#8 0xC8#8 = 0xDB#8 ∧ crc8 0x00#8 0x00#8 = 0x81#8) ∧
      ¬ (crc8 0x43#8 0xC8#8 = 0xDB#8 ∧ crc8 0x00#8 0x00#8 = 0x80#8) := by decide +kernel
theorem witness_MdecIsAllOrNothing_valid : ∀ w ∈ answerWords answerP3, crc8 w.hi w.lo = w.crc := by decide +kernel
theorem witness_MdecIsAllOrNothing_invalid :
    ∃ w ∈ answerWords (answerP3.set 9 0x67#8), crc8 w.hi w.lo ≠ w.crc := by decide +kernel

end Sys2Proof.Tests
end

section
/-! SUPPORT. What every meaning computes: the row of the operation map (30_encoding.md R32) that its OP selects, and
so the function `answer` of 10_state.md R17. One equation per unit, one for `exec`, one for an issued request. -/

namespace Sys2Proof.Machine

/-- The operations that use the CRC unit when they succeed (10_state.md R13). -/
def checksumOps : List Byte := [0x01#8, 0x02#8, 0x20#8, 0x25#8]

/-- The state in which a successful operation delivers its response: with the CRC unit's register released if it
computed a checksum. -/
def afterResult (op : Byte) (s : State) : State := if op ∈ checksumOps then crcReleased s else s

/-- What an operation of the operation map does with its operands (60_exceptions.md R92): first the count is tested,
then the result is computed. -/
def runRow (row : OpRow) (d : List Byte) (s : State) : Result :=
  if needFits row.need d.length then deliver (okResponse (resultBytes row.result d)) (afterResult row.op s)
  else raise row.error s

theorem execCrc8_eq_runRow (d : List Byte) (s : State) :
    execCrc8 d s = runRow ⟨0x01#8, .exactly 2, .invalidLength, .checksum⟩ d s := by
  match d with
  | [] | [_] | [_, _] => rfl
  | _ :: _ :: _ :: _ => simp [execCrc8, runRow, needFits]

theorem execValidate_eq_runRow (d : List Byte) (s : State) :
    execValidate d s = runRow ⟨0x02#8, .exactly 3, .invalidLength, .verdict⟩ d s := by
  match d with
  | [] | [_] | [_, _] => rfl
  | [_, _, _] => simp [execValidate, runRow, needFits, resultBytes, truthByte, afterResult, checksumOps]
  | _ :: _ :: _ :: _ :: _ => simp [execValidate, runRow, needFits]

theorem execFdec_eq_runRow (d : List Byte) (s : State) :
    execFdec d s = runRow ⟨0x10#8, .atLeast 4, .malformedFloatEncoding, .pattern⟩ d s := by
  match d with
  | [] | [_] | [_, _] | [_, _, _] => rfl
  | _ :: _ :: _ :: _ :: _ => simp [execFdec, runRow, needFits, resultBytes, afterResult, checksumOps]

theorem commandWithArgument_eq_runRow {op : Byte} (h : op ∈ checksumOps) (wop : Half) (d : List Byte) (s : State) :
    commandWithArgument wop d s = runRow ⟨op, .exactly 2, .invalidLength, .opcodeArgument wop⟩ d s := by
  match d with
  | [] | [_] => rfl
  | [_, _] => simp [commandWithArgument, runRow, needFits, resultBytes, frame5, afterResult, h]
  | _ :: _ :: _ :: _ => simp [commandWithArgument, runRow, needFits]

theorem commandWithoutArgument_eq_runRow {op : Byte} (h : op ∉ checksumOps) (wop : Half) (d : List Byte)
    (s : State) :
    commandWithoutArgument wop d s = runRow ⟨op, .exactly 0, .invalidLength, .opcode wop⟩ d s := by
  match d with
  | [] => simp [commandWithoutArgument, runRow, needFits, resultBytes, frame2, afterResult, h]
  | _ :: _ => simp [commandWithoutArgument, runRow, needFits]

/-- Every meaning runs the row of the operation map that its OP selects (30_encoding.md R32). -/
theorem exec_runs_row (i : Instr) (s : State) :
    ∃ row, opRows.find? (fun row => row.op == i.op) = some row ∧ row.op = i.op ∧
      exec i s = runRow row i.operands s := by
  cases i with
  | crc8 d => exact ⟨_, rfl, rfl, execCrc8_eq_runRow d s⟩
  | validate d => exact ⟨_, rfl, rfl, execValidate_eq_runRow d s⟩
  | fdec d => exact ⟨_, rfl, rfl, execFdec_eq_runRow d s⟩
  | cmdStart d => exact ⟨_, rfl, rfl, commandWithArgument_eq_runRow (by decide) wopStart d s⟩
  | cmdSetint d => exact ⟨_, rfl, rfl, commandWithArgument_eq_runRow (by decide) wopInterval d s⟩
  | cmdStop d => exact ⟨_, rfl, rfl, commandWithoutArgument_eq_runRow (by decide) wopStop d s⟩
  | cmdRdy d => exact ⟨_, rfl, rfl, commandWithoutArgument_eq_runRow (by decide) wopReady d s⟩
  | cmdRead d => exact ⟨_, rfl, rfl, commandWithoutArgument_eq_runRow (by decide) wopRead d s⟩
  | cmdGetint d => exact ⟨_, rfl, rfl, commandWithoutArgument_eq_runRow (by decide) wopInterval d s⟩
  | cmdAsc d => exact ⟨_, rfl, rfl, commandWithoutArgument_eq_runRow (by decide) wopAsc d s⟩
  | cmdReset d => exact ⟨_, rfl, rfl, commandWithoutArgument_eq_runRow (by decide) wopReset d s⟩
  | cmdFwver d => exact ⟨_, rfl, rfl, commandWithoutArgument_eq_runRow (by decide) wopFwver d s⟩

theorem answer_of_row {r : Request} {row : OpRow} (h : opRows.find? (fun row => row.op == r.op) = some row) :
    answer r =
      if needFits row.need r.n then okResponse (resultBytes row.result r.d) else errorResponse row.error := by
  simp only [answer, h]
  rfl

/-- Every meaning delivers the answer of its request, and uses the CRC unit only where a checksum is computed. -/
theorem exec_answers (i : Instr) (s : State) :
    ∃ u, exec i s = deliver (answer i.request) u ∧
      (u = s ∨ u = crcReleased s ∧ i.op ∈ checksumOps ∧ (answer i.request).st = 0x00#8) := by
  obtain ⟨row, hfind, hop, hexec⟩ := exec_runs_row i s
  have hans := answer_of_row (r := i.request) hfind
  by_cases hfit : needFits row.need i.operands.length = true
  · replace hans : answer i.request = okResponse (resultBytes row.result i.operands) := hans.trans (if_pos hfit)
    refine ⟨afterResult i.op s, by rw [hexec, hans, runRow, if_pos hfit, hop], ?_⟩
    by_cases hc : i.op ∈ checksumOps
    · exact .inr ⟨if_pos hc, hc, by rw [hans, okResponse_st]⟩
    · exact .inl (if_neg hc)
  · exact ⟨s, by rw [hexec, hans.trans (if_neg hfit), runRow, if_neg hfit, raise], .inl rfl⟩

/-- What a meaning leaves when it answers a next state, with its response and its use of the CRC unit. -/
theorem exec_next_answer {i : Instr} {s t : State} (h : exec i s = .next t) :
    s.phase = .idle ∧ (t = answered (answer i.request) s ∨
      t = answered (answer i.request) (crcReleased s) ∧ i.op ∈ checksumOps ∧ (answer i.request).st = 0x00#8) := by
  obtain ⟨u, hexec, rfl | ⟨rfl, hop, hst⟩⟩ := exec_answers i s
  · obtain ⟨hp, rfl⟩ := deliver_next (hexec.symm.trans h)
    exact ⟨hp, .inl rfl⟩
  · obtain ⟨hp, rfl⟩ := deliver_next (hexec.symm.trans h)
    exact ⟨hp, .inr ⟨rfl, hop, hst⟩⟩

/-- The selected operation asks for exactly the request it was selected by (30_encoding.md R32). -/
theorem request_of_decodeRequest {r : Request} {i : Instr} (h : decodeRequest r = .ok i) : i.request = r := by
  unfold decodeRequest at h
  split at h <;> cases h <;> exact congrArg (Request.mk · r.d) (Eq.symm ‹r.op = _›)

/-- Every row of the operation map is selected by its OP, whatever the operands (30_encoding.md R32). -/
theorem decodeRequest_opRow {row : OpRow} (h : row ∈ opRows) (d : List Byte) :
    ∃ i, decodeRequest ⟨row.op, d⟩ = .ok i := by
  fin_cases h <;> exact ⟨_, rfl⟩

/-- A request that selects no operation answers IllegalOperation (30_encoding.md R39). -/
theorem answer_of_decodeRequest_error {r : Request} {e : DecodeError} (h : decodeRequest r = .error e) :
    answer r = errorResponse .illegalOperation := by
  have hnone : opRows.find? (fun row => row.op == r.op) = none := by
    refine List.find?_eq_none.2 fun row hrow hop => ?_
    obtain ⟨i, hi⟩ := decodeRequest_opRow hrow r.d
    rw [eq_of_beq hop] at hi
    cases hi.symm.trans h
  simp only [answer, hnone]
  rfl

theorem issueRequest_ok {r : Request} {i : Instr} (hw : r.wf = true) (h : decodeRequest r = .ok i) (s : State) :
    issueRequest r s = exec i s := by
  simp [issueRequest, hw, h]

theorem issueRequest_error {r : Request} {e : DecodeError} (hw : r.wf = true) (h : decodeRequest r = .error e)
    (s : State) : issueRequest r s = raise .illegalOperation s := by
  simp [issueRequest, hw, h]

theorem issueRequest_not_wf {r : Request} (hw : r.wf = false) (s : State) :
    issueRequest r s = .refused .notARequest := by
  simp [issueRequest, hw]

/-- An issued request is answered by the function of 10_state.md R17. -/
theorem issueRequest_answers {r : Request} (hw : r.wf = true) (s : State) :
    ∃ u, issueRequest r s = deliver (answer r) u ∧ (u = s ∨ u = crcReleased s) := by
  cases hd : decodeRequest r with
  | ok i =>
    obtain ⟨u, hexec, hu⟩ := exec_answers i s
    rw [request_of_decodeRequest hd] at hexec
    exact ⟨u, (issueRequest_ok hw hd s).trans hexec, hu.imp_right And.left⟩
  | error e =>
    exact ⟨s, by rw [issueRequest_error hw hd, answer_of_decodeRequest_error hd, raise], .inl rfl⟩

/-- In IDLE every request completes with its answer; only `crc` and the counter are unconstrained. -/
theorem issueRequest_idle {r : Request} {s : State} (hw : r.wf = true) (hp : s.phase = .idle) :
    ∃ c n, issueRequest r s = .next { s with phase := .done, rsp := answer r, crc := c, fresh := n } := by
  obtain ⟨u, hissue, rfl | rfl⟩ := issueRequest_answers hw s
  · exact ⟨_, _, hissue.trans (deliver_idle hp _)⟩
  · exact ⟨_, _, hissue.trans (deliver_idle (s := crcReleased s) hp _)⟩

/-- An issued request that completes was well formed and leaves its answer. -/
theorem issueRequest_next {r : Request} {s t : State} (h : issueRequest r s = .next t) :
    r.wf = true ∧ s.phase = .idle ∧ leaves (answer r) s t := by
  cases hw : r.wf with
  | false => rw [issueRequest_not_wf hw] at h; cases h
  | true =>
    obtain ⟨u, hissue, hu⟩ := issueRequest_answers hw s
    obtain ⟨hp, rfl⟩ := deliver_next (hissue.symm.trans h)
    obtain rfl | rfl := hu
    · exact ⟨rfl, hp, .inl rfl⟩
    · exact ⟨rfl, hp, .inr rfl⟩

/-- The bytes of a request the port can carry select what the request selects (30_encoding.md R30). -/
theorem decode_bytes {r : Request} (hw : r.wf = true) : decode r.bytes = decodeRequest r := by
  have hcount : r.d.length = (BitVec.ofNat 8 r.n).toNat := (count_toNat hw).symm
  simp only [decode, Request.bytes, parseRequest, if_pos hcount]

/-- With the block idle an attempted issue executes the first request in line (10_state.md R12). -/
theorem step_issue {s : State} {ms : List Move} {r : Request} {rs : List Request} (hm : s.moves = .issue :: ms)
    (hp : s.phase = .idle) (hq : s.pending = r :: rs) :
    step s = issueRequest r { s with moves := ms, pending := rs } :=
  (step_move hm).trans (attemptIssue_idle (s := { s with moves := ms }) hp hq)

end Sys2Proof.Machine
end

section
/-! PROOF. The invariants of the machine: each update of the state keeps them, so every step does. -/

namespace Sys2Proof.Machine

theorem responseLegal_m_le {q : Response} (h : responseLegal q = true) : q.m ≤ Config.mMax := by
  unfold responseLegal at h
  split at h
  · exact (by decide : ∀ m ∈ [1, 2, 4, 5], m ≤ Config.mMax) q.m (of_decide_eq_true h)
  · have hm : q.m = 0 := of_decide_eq_true ((Bool.and_eq_true _ _).mp h).2
    exact hm ▸ Nat.zero_le _

theorem inv_of_leaves {s t : State} {q : Response} (hs : s.Inv) (hq : responseLegal q = true)
    (h : leaves q s t) : t.Inv := by
  obtain ⟨-, -, htaken, hpending⟩ := hs
  obtain rfl | rfl := h
  · exact ⟨responseLegal_m_le hq, fun _ => hq, htaken, hpending⟩
  · exact ⟨responseLegal_m_le hq, fun _ => hq, htaken, hpending⟩

theorem inv_responseTaken {s : State} (hs : s.Inv) (hp : s.phase = .done) : (responseTaken s).Inv := by
  obtain ⟨-, hrsp, htaken, hpending⟩ := hs
  refine ⟨responseTaken_rsp_m_le s, nofun, fun q hq => ?_, hpending⟩
  obtain hq | rfl : q ∈ s.taken ∨ q = s.rsp := by simpa using hq
  · exact htaken q hq
  · exact hrsp hp

theorem inv_blockReset {s : State} (hs : s.Inv) : (blockReset s).Inv := by
  obtain ⟨-, -, htaken, hpending⟩ := hs
  exact ⟨blockReset_rsp_m_le s, nofun, htaken, hpending⟩

/-- Taking the first request off the line keeps the invariant. -/
theorem inv_tail {s : State} {r : Request} {rs : List Request} (hs : s.Inv) (hp : s.pending = r :: rs) :
    State.Inv { s with pending := rs } := by
  obtain ⟨hm, hrsp, htaken, hpending⟩ := hs
  exact ⟨hm, hrsp, htaken, fun r' hr' => hpending r' (hp ▸ List.mem_cons_of_mem r hr')⟩

/-- Settles O40, by the cases of a step. The list of moves is not in the invariant. -/
theorem everyStepKeepsTheInvariant : Obligations.EveryStepKeepsTheInvariant := by
  intro s t h hs
  obtain ⟨-, rfl⟩ | ⟨m, ms, -, hcase⟩ := step_cases h
  · exact hs
  have hs' : State.Inv { s with moves := ms } := hs
  obtain rfl | ⟨r, rs, q, -, -, hq, -, hlegal, hleaves⟩ | ⟨-, hp, rfl⟩ | ⟨-, rfl⟩ := hcase
  · exact hs'
  · exact inv_of_leaves (inv_tail hs' hq) hlegal hleaves
  · exact inv_responseTaken hs' hp
  · exact inv_blockReset hs'

theorem explained_of_leaves {s t : State} {r : Request} (hs : s.Explained) (hw : r.wf = true)
    (h : leaves (answer r) s t) : t.Explained := by
  obtain ⟨-, htaken⟩ := hs
  obtain rfl | rfl := h
  · exact ⟨fun _ => ⟨r, hw, rfl⟩, htaken⟩
  · exact ⟨fun _ => ⟨r, hw, rfl⟩, htaken⟩

theorem explained_responseTaken {s : State} (hs : s.Explained) (hp : s.phase = .done) :
    (responseTaken s).Explained := by
  obtain ⟨hrsp, htaken⟩ := hs
  refine ⟨nofun, fun q hq => ?_⟩
  obtain hq | rfl : q ∈ s.taken ∨ q = s.rsp := by simpa using hq
  · exact htaken q hq
  · exact hrsp hp

theorem explained_blockReset {s : State} (hs : s.Explained) : (blockReset s).Explained := by
  obtain ⟨-, htaken⟩ := hs
  exact ⟨nofun, htaken⟩

/-- Settles O41, by the cases of a step: what an issue leaves is the answer of the request it took off the line. -/
theorem everyResponseIsTheFunctionOfARequest : Obligations.EveryResponseIsTheFunctionOfARequest := by
  intro s t h hs
  obtain ⟨-, rfl⟩ | ⟨m, ms, hm, hcase⟩ := step_cases h
  · exact hs
  have hs' : State.Explained { s with moves := ms } := hs
  obtain rfl | ⟨r, rs, -, rfl, hp, hq, -, -, -⟩ | ⟨-, hp, rfl⟩ | ⟨-, rfl⟩ := hcase
  · exact hs'
  · obtain ⟨hw, -, hleaves⟩ := issueRequest_next ((step_issue hm hp hq).symm.trans h)
    have hs'' : State.Explained { s with moves := ms, pending := rs } := hs
    exact explained_of_leaves hs'' hw hleaves
  · exact explained_responseTaken hs' hp
  · exact explained_blockReset hs'

/-- Settles O39: nothing waits, nothing was taken and nothing is pending at reset. -/
theorem resetStateMeetsTheInvariant : Obligations.ResetStateMeetsTheInvariant :=
  ⟨⟨by decide, nofun, nofun, nofun⟩, ⟨nofun, nofun⟩⟩

end Sys2Proof.Machine
end

section
/-! PROOF. Reset, the handshake, and what a step runs. -/

namespace Sys2Proof.Machine

/-- Settles O3: one clause per phase and attempted move. -/
theorem handshakeAlternatesIssueAndTake : Obligations.HandshakeAlternatesIssueAndTake := by
  refine ⟨fun s ms r rs hm hp hq hw => ?_, fun s ms hm hp => ?_, fun s ms hm hp => ?_, fun s ms hm hp => ?_⟩
  · rw [step_issue hm hp hq]
    exact issueRequest_idle hw hp
  · exact ⟨_, _, (step_move hm).trans (attemptTake_done (s := { s with moves := ms }) hp)⟩
  · exact (step_move hm).trans (attemptIssue_held hp)
  · exact (step_move hm).trans (attemptTake_held hp)

/-- Settles O7: the word's request is placed first in line, and the step that issues it runs what it decodes to. -/
theorem placedTableWordRunsNext : Obligations.PlacedTableWordRunsNext := by
  intro s nbits w i h
  have hw := tableRequest_wf nbits w
  have hdecode : decodeRequest (tableRequest nbits w) = .ok i := by
    rw [← decode_bytes hw]
    unfold decodeTableWord at h
    split at h
    · rename_i j hj
      exact hj.trans (congrArg _ (Option.some.inj h))
    · cases h
  calc step (s.withFetchWord nbits w)
    _ = issueRequest (tableRequest nbits w) { s with phase := .idle } :=
      step_issue (s := s.withFetchWord nbits w) rfl rfl rfl
    _ = exec i { s with phase := .idle } := issueRequest_ok hw hdecode _

/-- Settles O14: in every idle state, the reset state among them, the response is `answer r`. -/
theorem responseDependsOnRequestAlone : Obligations.ResponseDependsOnRequestAlone := by
  intro r s₁ s₂ hw hp₁ hp₂
  obtain ⟨c₁, n₁, h₁⟩ := issueRequest_idle hw hp₁
  obtain ⟨c₂, n₂, h₂⟩ := issueRequest_idle hw hp₂
  obtain ⟨c₀, n₀, h₀⟩ := issueRequest_idle (s := State.reset) hw rfl
  exact ⟨_, _, _, h₁, h₂, h₀, rfl, rfl, rfl⟩

/-- Settles O38, by what a meaning leaves: with the CRC unit unused nothing but the handshake changes; where it is
used, a checksum operation succeeded. -/
theorem operationsChangeOnlyTheHandshakeAndCrc : Obligations.OperationsChangeOnlyTheHandshakeAndCrc := by
  intro i s t h
  obtain ⟨hp, rfl | ⟨rfl, hop, hst⟩⟩ := exec_next_answer h
  · exact ⟨hp, rfl, rfl, rfl, rfl, fun _ => ⟨rfl, rfl⟩⟩
  · exact ⟨hp, rfl, rfl, rfl, rfl, fun hnot => absurd ⟨hop, hst⟩ hnot⟩

/-- Settles O1, by evaluation of the reset state and the constants. -/
theorem resetStateIsIdleWithCrcLoaded : Obligations.ResetStateIsIdleWithCrcLoaded :=
  ⟨rfl, rfl, rfl, rfl, rfl, rfl, rfl, rfl⟩

/-- Settles O5: every meaning and every error ends in `deliver`, which stops in DONE. -/
theorem disabledStepsStopByName : Obligations.DisabledStepsStopByName := by
  refine ⟨fun i s hp => ?_, fun e s hp => deliver_done hp _, fun s hp => takeResponse_idle hp⟩
  obtain ⟨u, hexec, rfl | ⟨rfl, -, -⟩⟩ := exec_answers i s
  · exact hexec.trans (deliver_done hp _)
  · exact hexec.trans (deliver_done (s := crcReleased s) hp _)

/-- Settles O6: the issued request selects what its bytes decode to. -/
theorem stepRunsTheDecodedInstruction : Obligations.StepRunsTheDecodedInstruction := by
  intro s i r rs ms hp hm hq hw hdecode
  rw [step_issue hm hp hq]
  exact issueRequest_ok hw ((decode_bytes hw).symm.trans hdecode) _

end Sys2Proof.Machine
end

section
/-! SUPPORT. Which operand bytes an answer is computed from (20_memory.md R28), and one transaction of a host that
issues and takes in turn (R25). -/

namespace Sys2Proof.Machine

/-- How many operand bytes, from `D[0]` on, a result is computed from (20_memory.md R28). -/
def ResultKind.reads : ResultKind → Nat
  | .checksum => 2
  | .verdict => 3
  | .pattern => 4
  | .opcode _ => 0
  | .opcodeArgument _ => 2

theorem ResultKind.reads_le_four (k : ResultKind) : k.reads ≤ 4 := by
  cases k <;> simp [ResultKind.reads]

theorem getD_eq_of_take_eq {d d' : List Byte} {k i : Nat} (h : d.take k = d'.take k) (hi : i < k) :
    d.getD i 0#8 = d'.getD i 0#8 := by
  rw [List.getD_eq_getElem?_getD, List.getD_eq_getElem?_getD, ← List.getElem?_take_of_lt hi, h,
    List.getElem?_take_of_lt hi]

/-- A result is a function of the operand bytes it reads. -/
theorem resultBytes_eq_of_take_eq {k : ResultKind} {d d' : List Byte} (h : d.take k.reads = d'.take k.reads) :
    resultBytes k d = resultBytes k d' := by
  have hbyte : ∀ i < k.reads, d.getD i 0#8 = d'.getD i 0#8 := fun _ => getD_eq_of_take_eq h
  cases k with
  | checksum => simp only [resultBytes, hbyte 0 Nat.two_pos, hbyte 1 Nat.one_lt_two]
  | verdict => simp only [resultBytes, hbyte 0 (by decide), hbyte 1 (by decide), hbyte 2 (by decide)]
  | pattern =>
    simp only [resultBytes, hbyte 0 (by decide), hbyte 1 (by decide), hbyte 2 (by decide), hbyte 3 (by decide)]
  | opcode wop => rfl
  | opcodeArgument wop => simp only [resultBytes, hbyte 0 Nat.two_pos, hbyte 1 Nat.one_lt_two]

/-- How many operand bytes the operation with selector `op` reads; an unassigned selector reads none. -/
def operandsRead (op : Byte) : Nat :=
  (opRows.find? fun row => row.op == op).elim 0 fun row => row.result.reads

theorem operandsRead_le_four (op : Byte) : operandsRead op ≤ 4 := by
  unfold operandsRead
  cases opRows.find? fun row => row.op == op with
  | none => exact Nat.zero_le 4
  | some row => exact row.result.reads_le_four

/-- With OP and N fixed, the answer is a function of the operand bytes the operation reads. -/
theorem answer_eq_of_take_eq {r r' : Request} (hop : r.op = r'.op) (hn : r.n = r'.n)
    (h : r.d.take (operandsRead r.op) = r'.d.take (operandsRead r.op)) : answer r = answer r' := by
  cases hrow : opRows.find? (fun row => row.op == r.op) with
  | none => simp only [answer, ← hop, hrow]
  | some row =>
    simp only [operandsRead, hrow, Option.elim_some] at h
    rw [answer_of_row hrow, answer_of_row (hop ▸ hrow), hn, resultBytes_eq_of_take_eq h]

/-- With OP and N fixed, an error is the answer whatever the operand bytes (60_exceptions.md R92). -/
theorem answer_eq_of_st_ne_ok {r r' : Request} (hop : r.op = r'.op) (hn : r.n = r'.n)
    (h : (answer r).st ≠ 0x00#8) : answer r = answer r' := by
  cases hrow : opRows.find? (fun row => row.op == r.op) with
  | none => simp only [answer, ← hop, hrow]
  | some row =>
    rw [answer_of_row hrow, answer_of_row (hop ▸ hrow), ← hn]
    by_cases hfit : needFits row.need r.n = true
    · rw [answer_of_row hrow, if_pos hfit] at h
      exact absurd (okResponse_st _) h
    · rw [if_neg hfit, if_neg hfit]

/-- Two steps of a host that issues its next request and takes the response: the answer is observed and the block is
idle again (10_state.md R12). -/
theorem run_issue_take {s : State} {r : Request} {rs : List Request} {ms : List Move} (hp : s.phase = .idle)
    (hw : r.wf = true) (hq : s.pending = r :: rs) (hm : s.moves = .issue :: .take :: ms) :
    ∃ q c n, ∀ k, Host.Core.run Sys2Proof.core (k + 2) s = Host.Core.run Sys2Proof.core k
      { s with pending := rs, moves := ms, taken := s.taken ++ [answer r], rsp := q, crc := c, fresh := n } := by
  obtain ⟨hissue, htake, -, -⟩ := handshakeAlternatesIssueAndTake
  obtain ⟨c, n, h₁⟩ := hissue s (.take :: ms) r rs hm hp hq hw
  obtain ⟨q, n', h₂⟩ := htake
    { s with moves := .take :: ms, pending := rs, phase := .done, rsp := answer r, crc := c, fresh := n } ms rfl rfl
  refine ⟨q, c, n', fun k => ?_⟩
  rw [run_succ (k + 1) h₁, run_succ k h₂, ← hp]

end Sys2Proof.Machine
end

section
/-! PROOF. What takes the place of memory (20_memory.md): the operand bytes an operation reads, the order in which
requests are answered, and the words of an answer. -/

namespace Sys2Proof.Machine

/-- Settles O15: both requests get their answers, which depend on the operand bytes that are read, and on none of
them after an error. -/
theorem onlyNamedOperandBytesAreRead : Obligations.OnlyNamedOperandBytesAreRead := by
  intro r r' s hw hw' hp hop hn
  obtain ⟨c, n, ht⟩ := issueRequest_idle hw hp
  obtain ⟨c', n', ht'⟩ := issueRequest_idle hw' hp
  have hread : ∀ k, operandsRead r.op ≤ k → r.d.take k = r'.d.take k → answer r = answer r' := by
    intro k hk h
    refine answer_eq_of_take_eq hop hn ?_
    rw [← Nat.min_eq_left hk, ← List.take_take, ← List.take_take, h]
  refine ⟨_, _, ht, ht', hread 4 (operandsRead_le_four r.op), fun hmem => hread 2 ?_, fun hmem => hread 3 ?_,
    fun hmem => hread 0 ?_ rfl, answer_eq_of_st_ne_ok hop hn⟩
  · exact (by decide : ∀ op ∈ [0x01#8, 0x20#8, 0x25#8], operandsRead op ≤ 2) r.op hmem
  · rw [hmem]; decide
  · exact (by decide : ∀ op ∈ [0x21#8, 0x22#8, 0x23#8, 0x24#8, 0x26#8, 0x27#8, 0x28#8], operandsRead op ≤ 0) r.op hmem

/-- Settles O43, by induction on the requests: each is issued and taken before the next. -/
theorem requestsAreAnsweredInIssueOrder : Obligations.RequestsAreAnsweredInIssueOrder := by
  intro rs rest ms
  induction rs with
  | nil =>
    intro s _ _ hq hm
    refine ⟨s.rsp, s.crc, s.fresh, ?_⟩
    obtain rfl : s.pending = rest := hq
    obtain rfl : s.moves = ms := hm
    simp
  | cons r rs ih =>
    intro s hp hw hq hm
    obtain ⟨hwr, hwrs⟩ := List.forall_mem_cons.1 hw
    obtain ⟨q₁, c₁, n₁, hfirst⟩ := run_issue_take hp hwr hq hm
    obtain ⟨q, c, n, hrest⟩ := ih { s with
      pending := rs ++ rest, moves := (rs.flatMap fun _ => [.issue, .take]) ++ ms, taken := s.taken ++ [answer r],
      rsp := q₁, crc := c₁, fresh := n₁ } hp hwrs rfl rfl
    refine ⟨q, c, n, (hfirst (2 * rs.length)).trans (hrest.trans ?_)⟩
    simp

/-- Settles O47, word by word. -/
theorem answerIsCutIntoWordsByPosition : Obligations.AnswerIsCutIntoWordsByPosition := by
  intro b
  refine ⟨rfl, fun k h => ?_⟩
  interval_cases k <;> rfl

end Sys2Proof.Machine
end

section
/-! SUPPORT. Decode and encode (30_encoding.md R30, R32): what a request's byte sequence is, and that an instruction
and its request stand for each other. -/

namespace Sys2Proof

/-- The request that asks for an instruction selects it, operand bytes included. -/
theorem decodeRequest_request : ∀ i : Instr, decodeRequest i.request = .ok i
  | .crc8 d => Laws.RequestRoundTrip.crc8 d
  | .validate d => Laws.RequestRoundTrip.validate d
  | .fdec d => Laws.RequestRoundTrip.fdec d
  | .cmdStart d => Laws.RequestRoundTrip.cmdStart d
  | .cmdStop d => Laws.RequestRoundTrip.cmdStop d
  | .cmdRdy d => Laws.RequestRoundTrip.cmdRdy d
  | .cmdRead d => Laws.RequestRoundTrip.cmdRead d
  | .cmdGetint d => Laws.RequestRoundTrip.cmdGetint d
  | .cmdSetint d => Laws.RequestRoundTrip.cmdSetint d
  | .cmdAsc d => Laws.RequestRoundTrip.cmdAsc d
  | .cmdReset d => Laws.RequestRoundTrip.cmdReset d
  | .cmdFwver d => Laws.RequestRoundTrip.cmdFwver d

/-- A byte sequence is a request exactly when its count field counts the bytes that follow it. -/
theorem parseRequest_eq_ok_iff {bytes : List Byte} {r : Request} :
    parseRequest bytes = .ok r ↔ ∃ n : Byte, bytes = r.op :: n :: r.d ∧ r.n = n.toNat := by
  match bytes with
  | [] | [_] => simp [parseRequest]
  | op :: n :: d =>
    by_cases hn : d.length = n.toNat
    · simp only [parseRequest, if_pos hn, Except.ok.injEq]
      exact ⟨by rintro rfl; exact ⟨n, rfl, hn⟩, by rintro ⟨_, hbytes, -⟩; cases hbytes; rfl⟩
    · simp only [parseRequest, if_neg hn]
      exact ⟨nofun, by rintro ⟨_, hbytes, hk⟩; cases hbytes; exact absurd hk hn⟩

/-- A byte sequence that is a request is that request's own byte sequence, and the port can carry it. -/
theorem bytes_of_parseRequest {bytes : List Byte} {r : Request} (h : parseRequest bytes = .ok r) :
    r.bytes = bytes ∧ r.wf = true := by
  obtain ⟨n, rfl, hn⟩ := parseRequest_eq_ok_iff.1 h
  have hbyte : BitVec.ofNat 8 r.n = n := by rw [hn, BitVec.ofNat_toNat, BitVec.setWidth_eq]
  exact ⟨by rw [Request.bytes, hbyte], r.wf_iff.2 (by omega)⟩

/-- A decoded byte sequence is a request that selects the instruction. -/
theorem decode_eq_ok {bytes : List Byte} {i : Instr} (h : decode bytes = .ok i) :
    ∃ r, parseRequest bytes = .ok r ∧ decodeRequest r = .ok i := by
  unfold decode at h
  split at h
  · exact ⟨_, ‹_›, h⟩
  · cases h

/-- A selector outside the operation map selects nothing (30_encoding.md R39). -/
theorem decodeRequest_unassigned {r : Request}
    (h : r.op ∉ [0x01#8, 0x02#8, 0x10#8, 0x20#8, 0x21#8, 0x22#8, 0x23#8, 0x24#8, 0x25#8, 0x26#8, 0x27#8, 0x28#8]) :
    decodeRequest r = .error (.unassigned r.op) := by
  cases hd : decodeRequest r with
  | ok i =>
    obtain rfl := Machine.request_of_decodeRequest hd
    exact absurd (by cases i <;> simp [Instr.request, Instr.op]) h
  | error e =>
    unfold decodeRequest at hd
    split at hd <;> cases hd
    rfl

end Sys2Proof
end

section
/-! PROOF. Decode of encode and encode of decode; the selectors that are unassigned. -/

namespace Sys2Proof

open Machine

/-- Settles O8: the encoding is the byte sequence of the instruction's request, which selects the instruction. -/
theorem decodeOfEncodeIsTheInstruction : Obligations.DecodeOfEncodeIsTheInstruction := by
  intro i hw
  exact ⟨(decode_bytes (r := i.request) hw).trans (decodeRequest_request i), rfl, rfl, rfl⟩

/-- Settles O9: the bytes are those of a request, and the request is the one the instruction asks for. -/
theorem encodeOfDecodeIsTheBytes : Obligations.EncodeOfDecodeIsTheBytes := by
  intro bytes i h
  obtain ⟨r, hparse, hselect⟩ := decode_eq_ok h
  obtain rfl := request_of_decodeRequest hselect
  exact bytes_of_parseRequest hparse

/-- Settles O10: the two bytes before the operands make the length N + 2. -/
theorem requestLengthIsItsCountPlusTwo : Obligations.RequestLengthIsItsCountPlusTwo := by
  intro bytes r
  rw [parseRequest_eq_ok_iff]
  refine exists_congr fun n => and_congr_right fun hbytes => ?_
  simp [hbytes, Request.n]

/-- Settles O11, by decoding each sequence. -/
theorem writtenOutWordsDecode : Obligations.WrittenOutWordsDecode :=
  ⟨rfl, rfl, rfl, rfl, rfl, rfl, rfl, rfl⟩

/-- Settles O17: such a request selects no operation, so it is answered by the error response; the count of values
and their ranges are finite facts. -/
theorem unassignedSelectorsAnswerIllegalOperation : Obligations.UnassignedSelectorsAnswerIllegalOperation := by
  refine ⟨fun r s hw hp hop => ?_, by decide +kernel, by decide +kernel⟩
  have hd := decodeRequest_unassigned hop
  exact ⟨(issueRequest_error hw hd s).trans (raise_idle hp _), hd⟩

end Sys2Proof
end

section
/-! SUPPORT. The written form of requests (30_encoding.md R42): a written byte reads as itself, so operand bytes do. -/

namespace Sys2Proof.Machine

theorem digitValue_hexDigits {k : Nat} (h : k < 16) : digitValue (hexDigits.getD k '0') = some k := by
  interval_cases k <;> rfl

@[simp] theorem readByte_writeByte (b : Byte) : readByte (writeByte b) = some b := by
  have hlt : b.toNat < 256 := b.isLt
  have hhi : b.toNat / 16 < 16 := by omega
  have hlo : b.toNat % 16 < 16 := by omega
  have hval : BitVec.ofNat 8 (16 * (b.toNat / 16) + b.toNat % 16) = b := by
    rw [Nat.div_add_mod, BitVec.ofNat_toNat, BitVec.setWidth_eq]
  simp only [readByte, writeByte, String.toList_ofList, digitValue_hexDigits hhi, digitValue_hexDigits hlo, hval]

@[simp] theorem readBytes_map_writeByte (d : List Byte) : readBytes (d.map writeByte) = some d := by
  induction d with
  | nil => rfl
  | cons b d ih => simp only [List.map_cons, readBytes, readByte_writeByte, ih]

/-- Words that are all bytes are never read as a number (log 16). -/
@[simp] theorem readArgument_map_writeByte (d : List Byte) : readArgument (d.map writeByte) = some d := by
  simp only [readArgument, readBytes_map_writeByte]

end Sys2Proof.Machine
end

section
/-! PROOF. Reading back what is written. -/

namespace Sys2Proof.Machine

theorem readRequest_writeRequest (i : Instr) : readRequest (writeRequest i) = some i := by
  cases i <;> simp [writeRequest, readRequest, mnemonicOf, Instr.operands]

/-- Settles O12: the mnemonic selects the operation and the words after it are its operand bytes; the numbers are
evaluated. -/
theorem writtenRequestReadsBack : Obligations.WrittenRequestReadsBack :=
  ⟨readRequest_writeRequest, by decide +kernel, by decide +kernel, by decide +kernel, by decide +kernel⟩

end Sys2Proof.Machine
end

section
/-! SUPPORT. What an answer can be (10_state.md R17): an error with no result, or the result of its row with the
result count `M` of 30_encoding.md R31. -/

namespace Sys2Proof.Machine

/-- The result count `M` of a result (30_encoding.md R31). -/
def ResultKind.count : ResultKind → Nat
  | .checksum => 1
  | .verdict => 1
  | .pattern => 4
  | .opcode _ => 2
  | .opcodeArgument _ => 5

@[simp] theorem length_resultBytes (k : ResultKind) (d : List Byte) : (resultBytes k d).length = k.count := by
  cases k <;> rfl

theorem ResultKind.count_ne_zero (k : ResultKind) : k.count ≠ 0 := by
  cases k <;> simp [ResultKind.count]

theorem opRow_error_ne_ok {row : OpRow} (h : row ∈ opRows) : row.error ≠ .ok :=
  (by decide : ∀ row ∈ opRows, row.error ≠ .ok) row h

theorem statusCode_eq_ok_iff {e : Status} : statusCode e = 0x00#8 ↔ e = .ok := by
  cases e <;> decide

theorem statusCode_mem (e : Status) : statusCode e ∈ [0x00#8, 0x01#8, 0x02#8, 0x03#8] := by
  cases e <;> decide

/-- Everything an answer can be: an error, or the result of the row that OP selects. -/
theorem answer_cases (r : Request) :
    (∃ e, e ≠ .ok ∧ answer r = errorResponse e) ∨
    ∃ row ∈ opRows, opRows.find? (fun row => row.op == r.op) = some row ∧
      answer r = okResponse (resultBytes row.result r.d) := by
  cases hfind : opRows.find? (fun row => row.op == r.op) with
  | none => exact .inl ⟨.illegalOperation, nofun, by simp only [answer, hfind]; rfl⟩
  | some row =>
    have hmem := List.mem_of_find?_eq_some hfind
    have hans := answer_of_row hfind
    by_cases hfit : needFits row.need r.n = true
    · exact .inr ⟨row, hmem, rfl, hans.trans (if_pos hfit)⟩
    · exact .inl ⟨row.error, opRow_error_ne_ok hmem, hans.trans (if_neg hfit)⟩

/-- An answer with status OK is the result of the row that OP selects. -/
theorem answer_of_st_ok {r : Request} (h : (answer r).st = 0x00#8) :
    ∃ row ∈ opRows, opRows.find? (fun row => row.op == r.op) = some row ∧
      answer r = okResponse (resultBytes row.result r.d) := by
  obtain ⟨e, he, hans⟩ | hrow := answer_cases r
  · rw [hans, errorResponse_st, statusCode_eq_ok_iff] at h
    exact absurd h he
  · exact hrow

theorem answer_st_mem (r : Request) : (answer r).st ∈ [0x00#8, 0x01#8, 0x02#8, 0x03#8] := by
  obtain ⟨e, -, hans⟩ | ⟨row, -, -, hans⟩ := answer_cases r
  · rw [hans]; exact statusCode_mem e
  · rw [hans]; exact statusCode_mem .ok

/-- `M = 0` exactly when `ST` is not OK (30_encoding.md R31). -/
theorem answer_m_eq_zero_iff (r : Request) : (answer r).m = 0 ↔ (answer r).st ≠ 0x00#8 := by
  obtain ⟨e, he, hans⟩ | ⟨row, -, -, hans⟩ := answer_cases r
  · simp [hans, Response.m, statusCode_eq_ok_iff, he]
  · simp [hans, Response.m, row.result.count_ne_zero]

/-- The result count of a successful operation with selector `op`; 0 for an unassigned selector. -/
def resultCount (op : Byte) : Nat :=
  (opRows.find? fun row => row.op == op).elim 0 fun row => row.result.count

/-- With status OK, `M` is the count of the selected operation (30_encoding.md R31). -/
theorem answer_m_of_st_ok {r : Request} (h : (answer r).st = 0x00#8) : (answer r).m = resultCount r.op := by
  obtain ⟨row, -, hfind, hans⟩ := answer_of_st_ok h
  simp [hans, Response.m, resultCount, hfind]

/-- The response a meaning leaves is the answer of its request. -/
theorem exec_next_rsp {i : Instr} {s t : State} (h : exec i s = .next t) : t.rsp = answer i.request := by
  obtain ⟨-, rfl | ⟨rfl, -, -⟩⟩ := exec_next_answer h <;> rfl

/-- A meaning that succeeds leaves the result bytes of the row that its OP selects. -/
theorem exec_next_ok {i : Instr} {s t : State} (h : exec i s = .next t) (hok : t.rsp.st = 0x00#8) :
    ∃ row ∈ opRows, opRows.find? (fun row => row.op == i.op) = some row ∧ row.op = i.op ∧
      t.rsp.q = resultBytes row.result i.operands := by
  rw [exec_next_rsp h] at hok ⊢
  obtain ⟨row, hmem, hfind, hans⟩ := answer_of_st_ok hok
  have hop := List.find?_some (p := fun row : OpRow => row.op == i.op) hfind
  exact ⟨row, hmem, hfind, eq_of_beq hop, congrArg Response.q hans⟩

end Sys2Proof.Machine
end

section
/-! PROOF. The whole dispatch: every issued request gets its answer, and every answer has a legal format. -/

namespace Sys2Proof.Machine

/-- Settles O13: in IDLE the issued request completes with its answer. -/
theorem issueFollowsTheOperationMap : Obligations.IssueFollowsTheOperationMap :=
  fun _ _ => issueRequest_idle

/-- Settles O16: the response is the answer, whose count is the selected operation's. -/
theorem responseFormatIsLegal : Obligations.ResponseFormatIsLegal := by
  intro r s hw hp
  obtain ⟨c, n, h⟩ := issueRequest_idle hw hp
  refine ⟨_, h, answer_st_mem r, answer_m_eq_zero_iff r, fun hok => ?_, rfl, rfl⟩
  simp only [answer_m_of_st_ok hok]
  refine ⟨fun hop => ?_, fun hop => ?_, fun hop => ?_, fun hop => ?_⟩
  · exact (by decide : ∀ op ∈ [0x01#8, 0x02#8], resultCount op = 1) r.op hop
  · rw [hop]; decide
  · exact (by decide : ∀ op ∈ [0x21#8, 0x22#8, 0x23#8, 0x24#8, 0x26#8, 0x27#8, 0x28#8], resultCount op = 2) r.op hop
  · exact (by decide : ∀ op ∈ [0x20#8, 0x25#8], resultCount op = 5) r.op hop

end Sys2Proof.Machine
end

section
/-! SUPPORT. The command encoder's arguments and frames (30_encoding.md R35, R36, R40, R41). -/

namespace Sys2Proof.Machine

@[simp] theorem hiByte_append_loByte (v : Half) : hiByte v ++ loByte v = v := by
  unfold hiByte loByte
  exact (BitVec.extractLsb'_append_extractLsb'_eq_extractLsb' rfl).trans BitVec.extractLsb'_eq_self

theorem argOf_toNat (d0 d1 : Byte) : (argOf d0 d1).toNat = 256 * d0.toNat + d1.toNat := by
  rw [argOf, BitVec.toNat_append, ← Nat.shiftLeft_add_eq_or_of_lt d1.isLt, Nat.shiftLeft_eq, Nat.mul_comm]

theorem argBytes_argOf (d0 d1 : Byte) : argBytes (argOf d0 d1) = [d0, d1] := by
  rw [argBytes, hiByte, loByte, argOf, BitVec.extractLsb'_append_eq_left, BitVec.extractLsb'_append_eq_right]

/-- The wire opcode a result begins with, where the operation is one of the encoder's. -/
def ResultKind.wireOpcode : ResultKind → Option Half
  | .opcode wop => some wop
  | .opcodeArgument wop => some wop
  | _ => none

theorem frameOpcode_resultBytes {k : ResultKind} {wop : Half} (h : k.wireOpcode = some wop) (d : List Byte) :
    frameOpcode (resultBytes k d) = some wop := by
  cases k with
  | opcode w => cases h; simp [resultBytes, frameOpcode]
  | opcodeArgument w => cases h; simp [resultBytes, frameOpcode]
  | checksum => cases h
  | verdict => cases h
  | pattern => cases h

/-- A command with argument in IDLE: the C5 frame of its opcode and argument, the CRC unit's register released
(43_command_encoder.md R70). -/
theorem commandWithArgument_idle {s : State} (hp : s.phase = .idle) (wop : Half) (d0 d1 : Byte) :
    commandWithArgument wop [d0, d1] s =
      .next (answered (okResponse (frame5 wop d0 d1 (crc8 d0 d1))) (crcReleased s)) :=
  deliver_idle (s := crcReleased s) hp _

/-- A command without argument in IDLE: its wire opcode (43_command_encoder.md R70). -/
theorem commandWithoutArgument_idle {s : State} (hp : s.phase = .idle) (wop : Half) :
    commandWithoutArgument wop [] s = .next (answered (okResponse (frame2 wop)) s) :=
  deliver_idle hp _

/-- A frame is read as C5 exactly by its five bytes and an opcode that takes an argument (30_encoding.md R41). The proof
has one case per branch of the reader, and so has the next. -/
theorem frameFormat_eq_c5_iff (frame : List Byte) :
    frameFormat frame = some .c5 ↔
      frame.length = 5 ∧ (frameOpcode frame = some 0x0010#16 ∨ frameOpcode frame = some 0x4600#16) := by
  cases hop : frameOpcode frame with
  | none => simp [frameFormat, hop]
  | some wop =>
    simp only [frameFormat, hop]
    split_ifs <;> simp_all [wopStart, wopInterval]

/-- A frame is read as C2 exactly by its two bytes and an opcode that may stand alone, which every wire opcode but
CMD_START's may (30_encoding.md R41). -/
theorem frameFormat_eq_c2_iff (frame : List Byte) :
    frameFormat frame = some .c2 ↔
      frame.length = 2 ∧ ∃ wop ∈ wireOpcodes.tail, frameOpcode frame = some wop := by
  cases hop : frameOpcode frame with
  | none => simp [frameFormat, hop]
  | some wop =>
    have hmem : wop ∈ wireOpcodes ↔ wop = wopStart ∨ wop ∈ wireOpcodes.tail := List.mem_cons
    have hstart : wopStart ∉ wireOpcodes.tail := by decide
    have hinterval : wopInterval ∈ wireOpcodes.tail := by decide
    simp only [frameFormat, hop]
    split_ifs <;> simp_all

/-- Every row of the encoder returns a frame that begins with one of the eight wire opcodes (30_encoding.md R40). -/
theorem encoderRow_frameOpcode {row : OpRow} (hmem : row ∈ opRows) (hop : 0x20#8 ≤ row.op) :
    ∃ wop ∈ wireOpcodes, ∀ d, frameOpcode (resultBytes row.result d) = some wop := by
  have hwop := (by decide : ∀ row ∈ opRows, 0x20#8 ≤ row.op → row.result.wireOpcode ∈ wireOpcodes.map some) row hmem hop
  obtain ⟨wop, hwop, hk⟩ := List.mem_map.1 hwop
  exact ⟨wop, hwop, frameOpcode_resultBytes hk.symm⟩

/-- Every row of the encoder returns a frame of 2 or 5 bytes (30_encoding.md R40). -/
theorem encoderRow_count {row : OpRow} (hmem : row ∈ opRows) (hop : 0x20#8 ≤ row.op) :
    row.result.count = 2 ∨ row.result.count = 5 :=
  (by decide : ∀ row ∈ opRows, 0x20#8 ≤ row.op → row.result.count = 2 ∨ row.result.count = 5) row hmem hop

/-- The rows of CMD_START and CMD_SETINT return frames that are read as C5 (30_encoding.md R32, R35). -/
theorem frameFormat_of_argumentRow {row : OpRow} (hmem : row ∈ opRows) (hop : row.op = 0x20#8 ∨ row.op = 0x25#8)
    (d : List Byte) : frameFormat (resultBytes row.result d) = some .c5 := by
  obtain ⟨hcount, hwop⟩ := (by decide : ∀ row ∈ opRows, row.op = 0x20#8 ∨ row.op = 0x25#8 →
    row.result.count = 5 ∧
      (row.result.wireOpcode = some wopStart ∨ row.result.wireOpcode = some wopInterval)) row hmem hop
  exact (frameFormat_eq_c5_iff _).2 ⟨(length_resultBytes _ d).trans hcount,
    hwop.imp (frameOpcode_resultBytes · d) (frameOpcode_resultBytes · d)⟩

/-- The encoder's other rows return frames that are read as C2 (30_encoding.md R32, R35). -/
theorem frameFormat_of_opcodeRow {row : OpRow} (hmem : row ∈ opRows) (hop : 0x20#8 ≤ row.op)
    (hne : ¬ (row.op = 0x20#8 ∨ row.op = 0x25#8)) (d : List Byte) :
    frameFormat (resultBytes row.result d) = some .c2 := by
  obtain ⟨hcount, hwop⟩ := (by decide : ∀ row ∈ opRows, 0x20#8 ≤ row.op → ¬ (row.op = 0x20#8 ∨ row.op = 0x25#8) →
    row.result.count = 2 ∧ row.result.wireOpcode ∈ wireOpcodes.tail.map some) row hmem hop hne
  obtain ⟨wop, hwop, hk⟩ := List.mem_map.1 hwop
  exact (frameFormat_eq_c2_iff _).2
    ⟨(length_resultBytes _ d).trans hcount, wop, hwop, frameOpcode_resultBytes hk.symm d⟩

end Sys2Proof.Machine
end

section
/-! PROOF. The command encoder's arguments and frames. -/

namespace Sys2Proof.Machine

/-- Settles O35: the argument's bytes are operands of a C5 frame. -/
theorem argumentStandsUnchangedInTheFrame : Obligations.ArgumentStandsUnchangedInTheFrame := by
  refine ⟨fun d0 d1 => ⟨argOf_toNat d0 d1, argBytes_argOf d0 d1⟩, fun arg s f hp hf => ?_⟩
  obtain ⟨wop, hexec⟩ : ∃ wop, exec (f (argBytes arg)) s = commandWithArgument wop (argBytes arg) s := by
    obtain rfl | rfl : f = .cmdStart ∨ f = .cmdSetint := by simpa using hf
    · exact ⟨wopStart, rfl⟩
    · exact ⟨wopInterval, rfl⟩
  exact ⟨_, hiByte arg, loByte arg, hexec.trans (commandWithArgument_idle hp wop _ _), rfl, rfl,
    hiByte_append_loByte arg, rfl, rfl⟩

/-- Settles O36: both frames are results of the row that the shared OP selects. -/
theorem encoderEmitsOnlyTheEightOpcodes : Obligations.EncoderEmitsOnlyTheEightOpcodes := by
  intro i j s t u hop hij ht hu hokt hoku
  obtain ⟨row, hmem, hfind, hrow, hqt⟩ := exec_next_ok ht hokt
  obtain ⟨row', -, hfind', -, hqu⟩ := exec_next_ok hu hoku
  obtain rfl : row = row' := Option.some.inj (hfind.symm.trans (hij ▸ hfind'))
  replace hop : 0x20#8 ≤ row.op := hrow ▸ hop
  obtain ⟨wop, hwop, hframe⟩ := encoderRow_frameOpcode hmem hop
  rw [hqt, hqu, length_resultBytes, length_resultBytes]
  exact ⟨⟨wop, hwop, hframe _, hframe _⟩, encoderRow_count hmem hop, rfl⟩

/-- Settles O37: the frames the encoder returns are results of its rows. -/
theorem frameReaderTellsTheFormat : Obligations.FrameReaderTellsTheFormat := by
  refine ⟨fun i s t hop ht hok => ?_, frameFormat_eq_c5_iff, frameFormat_eq_c2_iff⟩
  obtain ⟨row, hmem, -, hrow, hq⟩ := exec_next_ok ht hok
  rw [hq, ← hrow]
  split
  · exact frameFormat_of_argumentRow hmem ‹_› _
  · exact frameFormat_of_opcodeRow hmem (hrow ▸ hop) ‹_› _

/-- Settles O48: the two expansions are a command without and a command with argument. -/
theorem cmdIntervalExpands : Obligations.CmdIntervalExpands := by
  intro s arg hp
  exact ⟨commandWithoutArgument_idle hp wopInterval, hiByte arg, loByte arg, _, _, rfl, rfl,
    commandWithArgument_idle hp wopInterval _ _⟩

end Sys2Proof.Machine
end

section
/-! SUPPORT. The linear algebra of the CRC unit (41_crc8.md R51): a shift step is linear over XOR and never loses
information, so the byte step `T` is an invertible linear map, and a checksum is `T(T(0xFF XOR b0) XOR b1)`. -/

namespace Sys2Proof.Machine

/-- What the bit leaving bit 7 adds to the register (41_crc8.md R51). -/
def crcFeedback (b : Bool) : Byte := if b then crcPoly else 0#8

theorem crcFeedback_xor (a b : Bool) : crcFeedback (a ^^ b) = crcFeedback a ^^^ crcFeedback b := by
  cases a <;> cases b <;> rfl

theorem crcSerialStep_eq (c : Byte) (d : Bool) :
    crcSerialStep c d = (c <<< 1) ^^^ crcFeedback (c.getLsbD 7 ^^ d) := by
  simp only [crcSerialStep, crcFeedback]
  split
  · rfl
  · exact BitVec.xor_zero.symm

/-- Without a data bit the serial step is the shift step. -/
theorem crcShift_eq_crcSerialStep (c : Byte) : crcShift c = crcSerialStep c false := by
  rw [crcShift, crcSerialStep, Bool.xor_false]

theorem crcShift_eq (c : Byte) : crcShift c = (c <<< 1) ^^^ crcFeedback (c.getLsbD 7) := by
  rw [crcShift_eq_crcSerialStep, crcSerialStep_eq, Bool.xor_false]

theorem crcShift_xor (x y : Byte) : crcShift (x ^^^ y) = crcShift x ^^^ crcShift y := by
  simp only [crcShift_eq, BitVec.shiftLeft_xor_distrib, BitVec.getLsbD_xor, crcFeedback_xor]
  ac_rfl

/-- The taps (41_crc8.md, form (b)): bit k-1 moves to bit k, and the feedback enters at bits 0, 4 and 5. -/
theorem getLsbD_crcSerialStep (c : Byte) (d : Bool) {k : Nat} (hk : k < 8) :
    (crcSerialStep c d).getLsbD k =
      (if k = 0 then c.getLsbD 7 ^^ d
       else if k = 4 ∨ k = 5 then c.getLsbD (k - 1) ^^ (c.getLsbD 7 ^^ d)
       else c.getLsbD (k - 1)) := by
  rw [crcSerialStep_eq, BitVec.getLsbD_xor, BitVec.getLsbD_shiftLeft]
  cases c.getLsbD 7 ^^ d <;> interval_cases k <;> simp [crcFeedback, crcPoly]

/-- A shift step loses no information: bit 0 of the shifted register is the bit that left it. -/
theorem crcShift_eq_zero {c : Byte} (h : crcShift c = 0#8) : c = 0#8 := by
  have hzero : ∀ k, (crcSerialStep c false).getLsbD k = false := fun k => by
    rw [← crcShift_eq_crcSerialStep, h, BitVec.getLsbD_zero]
  have htop : c.getLsbD 7 = false := by
    rw [← hzero 0, getLsbD_crcSerialStep c false (by decide), if_pos rfl, Bool.xor_false]
  refine BitVec.eq_of_getLsbD_eq fun i hi => ?_
  obtain rfl | hlt : i = 7 ∨ i + 1 < 8 := by omega
  · exact htop
  · have hnext := hzero (i + 1)
    rw [getLsbD_crcSerialStep c false hlt, htop] at hnext
    simpa using hnext

theorem crcShifts_xor (n : Nat) (x y : Byte) : crcShifts n (x ^^^ y) = crcShifts n x ^^^ crcShifts n y := by
  induction n generalizing x y with
  | zero => rfl
  | succ n ih => rw [crcShifts_succ, crcShift_xor, ih, crcShifts_succ, crcShifts_succ]

theorem crcShifts_eq_zero {n : Nat} {c : Byte} (h : crcShifts n c = 0#8) : c = 0#8 := by
  induction n generalizing c with
  | zero => exact h
  | succ n ih => exact crcShift_eq_zero (ih h)

theorem crcShifts_add (m n : Nat) (c : Byte) : crcShifts (m + n) c = crcShifts n (crcShifts m c) := by
  induction m generalizing c with
  | zero => rw [Nat.zero_add, crcShifts_zero]
  | succ m ih => rw [Nat.succ_add, crcShifts_succ, crcShifts_succ, ih]

theorem crcT_xor (x y : Byte) : crcT (x ^^^ y) = crcT x ^^^ crcT y := crcShifts_xor 8 x y

theorem crcShifts_injective (n : Nat) : Function.Injective (crcShifts n) := fun x y h =>
  BitVec.xor_eq_zero_iff.1 (crcShifts_eq_zero (by rw [crcShifts_xor, h, BitVec.xor_self]))

theorem crcT_injective : Function.Injective crcT := crcShifts_injective 8

@[simp] theorem crcT_eq_zero_iff {x : Byte} : crcT x = 0#8 ↔ x = 0#8 :=
  ⟨crcShifts_eq_zero, by rintro rfl; decide +kernel⟩

/-- `crc8` by the byte step (41_crc8.md R51, form (a)). -/
theorem crc8_eq_crcT (b0 b1 : Byte) : crc8 b0 b1 = crcT (crcT (crcInit ^^^ b0) ^^^ b1) := by
  rw [crc8, crcOut_eq, crcAbsorb_eq, crcAbsorb_eq]

/-- A change of the payload changes the checksum by a linear function of the change (41_crc8.md R56). -/
theorem crc8_xor (hi lo a b : Byte) : crc8 (hi ^^^ a) (lo ^^^ b) = crc8 hi lo ^^^ crcT (crcT a ^^^ b) := by
  rw [crc8_eq_crcT, crc8_eq_crcT, ← crcT_xor, crcT_xor crcInit, crcT_xor crcInit, crcT_xor hi]
  exact congrArg crcT (by ac_rfl)

theorem crc8_zero_zero : crc8 0x00#8 0x00#8 = 0x81#8 := by decide +kernel

/-- FF cancels the initial value (41_crc8.md R53). -/
theorem crc8_FF_zero : crc8 0xFF#8 0x00#8 = 0x00#8 := by decide +kernel

theorem crc8_FF_FF : crc8 0xFF#8 0xFF#8 = 0xAC#8 := by decide +kernel

/-- The document's vector (41_crc8.md R55). -/
theorem crc8_BE_EF : crc8 0xBE#8 0xEF#8 = 0x92#8 := by decide +kernel

/-- The checksum without the initial value's share, which is the checksum 81 of 00 00. -/
theorem crcT_crcT_xor_eq (a b : Byte) : crcT (crcT a ^^^ b) = crc8 a b ^^^ 0x81#8 := by
  have hchange := crc8_xor 0x00#8 0x00#8 a b
  rw [BitVec.zero_xor, BitVec.zero_xor, crc8_zero_zero] at hchange
  rw [hchange, BitVec.xor_comm 0x81#8, BitVec.xor_assoc, BitVec.xor_self, BitVec.xor_zero]

theorem crc8_injective_right (d0 : Byte) : Function.Injective (crc8 d0) := fun x y h => by
  rw [crc8_eq_crcT, crc8_eq_crcT] at h
  exact (BitVec.xor_right_inj _).1 (crcT_injective h)

theorem crc8_injective_left (d1 : Byte) : Function.Injective (crc8 · d1) := fun x y (h : crc8 x d1 = crc8 y d1) => by
  rw [crc8_eq_crcT, crc8_eq_crcT] at h
  exact (BitVec.xor_right_inj _).1 (crcT_injective ((BitVec.xor_left_inj _).1 (crcT_injective h)))

/-- Each checksum has one word for each first byte. -/
theorem ncard_crc8_eq (c : Byte) : {p : Byte × Byte | crc8 p.1 p.2 = c}.ncard = 256 := by
  choose g hg using fun d0 => (Finite.injective_iff_bijective.1 (crc8_injective_right d0)).surjective c
  have hgraph : {p : Byte × Byte | crc8 p.1 p.2 = c} = Set.univ.graphOn g := by
    ext ⟨d0, d1⟩
    rw [Set.mem_ofPred_eq, Set.mem_graphOn, ← hg d0, (crc8_injective_right d0).eq_iff]
    exact ⟨fun h => ⟨trivial, h.symm⟩, fun h => h.2.symm⟩
  rw [hgraph, Set.ncard_graphOn, Set.ncard_univ, Nat.card_eq_fintype_card, ← FinEnum.card_eq_fintypeCard]
  exact FinEnum.card_bitVec 8

end Sys2Proof.Machine
end

section
/-! SUPPORT. Two other forms of `crc8` (41_crc8.md R51): the register that takes the data bits at its feedback, and
division by the generator x^8 + x^5 + x^4 + 1. -/

namespace Sys2Proof.Machine

/-- A byte XORed into the register beforehand gives up its bit 7 to the feedback, and the rest of it moves along. -/
theorem crcShift_xor_eq_crcSerialStep (c b : Byte) :
    crcShift (c ^^^ b) = crcSerialStep c (b.getLsbD 7) ^^^ (b <<< 1) := by
  rw [crcShift_eq, crcSerialStep_eq, BitVec.shiftLeft_xor_distrib, BitVec.getLsbD_xor]
  ac_rfl

/-- The top `n` bits of a byte, bit 7 first. -/
def topBits : Nat → Byte → List Bool
  | 0, _ => []
  | n + 1, b => b.getLsbD 7 :: topBits n (b <<< 1)

theorem topBits_eight (b : Byte) : topBits 8 b = bitsFromTop b := by
  simp [topBits, bitsFromTop]

theorem crcShifts_xor_eq_foldl (n : Nat) (c b : Byte) :
    crcShifts n (c ^^^ b) = (topBits n b).foldl crcSerialStep c ^^^ (b <<< n) := by
  induction n generalizing c b with
  | zero => rw [BitVec.shiftLeft_zero]; rfl
  | succ n ih =>
    rw [crcShifts_succ, crcShift_xor_eq_crcSerialStep, ih, ← BitVec.shiftLeft_add, Nat.add_comm 1 n]
    rfl

/-- After eight steps the whole byte has entered by the feedback. -/
theorem crcT_xor_eq_foldl (c b : Byte) : crcT (c ^^^ b) = (bitsFromTop b).foldl crcSerialStep c := by
  have hgone : b <<< 8 = 0#8 := BitVec.shiftLeft_eq_zero (by decide)
  rw [crcT, crcShifts_xor_eq_foldl, topBits_eight, hgone, BitVec.xor_zero]

theorem crc8_eq_crcSerial (b0 b1 : Byte) : crc8 b0 b1 = crcSerial b0 b1 := by
  rw [crc8_eq_crcT, crcT_xor_eq_foldl, crcT_xor_eq_foldl, crcSerial, List.foldl_append]

/-- One summand of a product with the generator. -/
def generatorTerm (b : Bool) (i : Nat) : Bits24 := if b then 0x131#24 <<< i else 0#24

theorem generatorTerm_xor (a b : Bool) (i : Nat) :
    generatorTerm (a ^^ b) i = generatorTerm a i ^^^ generatorTerm b i := by
  cases a <;> cases b <;> simp [generatorTerm]

/-- One step of the product: the term of degree `i` is added. -/
def addTerm (q : Half) (acc : Bits24) (i : Nat) : Bits24 := acc ^^^ generatorTerm (q.getLsbD i) i

theorem addTerm_xor (p q : Half) (x y : Bits24) (i : Nat) :
    addTerm (p ^^^ q) (x ^^^ y) i = addTerm p x i ^^^ addTerm q y i := by
  simp only [addTerm, BitVec.getLsbD_xor, generatorTerm_xor]
  ac_rfl

theorem timesGenerator_eq_foldl (q : Half) : timesGenerator q = (List.range 16).foldl (addTerm q) 0#24 := by
  refine congrArg (List.foldl · 0#24 (List.range 16)) (funext fun acc => funext fun i => ?_)
  cases hq : q.getLsbD i <;> simp [addTerm, generatorTerm, hq]

theorem timesGenerator_xor (p q : Half) : timesGenerator (p ^^^ q) = timesGenerator p ^^^ timesGenerator q := by
  have hfold : ∀ (l : List Nat) (x y : Bits24), l.foldl (addTerm (p ^^^ q)) (x ^^^ y) =
      l.foldl (addTerm p) x ^^^ l.foldl (addTerm q) y := by
    intro l
    induction l with
    | nil => exact fun _ _ => rfl
    | cons i l ih => exact fun x y => by rw [List.foldl_cons, addTerm_xor, ih, List.foldl_cons, List.foldl_cons]
  rw [timesGenerator_eq_foldl, timesGenerator_eq_foldl, timesGenerator_eq_foldl, ← hfold, BitVec.xor_self]

theorem timesGenerator_zero : timesGenerator 0#16 = 0#24 := by decide +kernel

/-- The generator times one power of x, or times 0. -/
theorem timesGenerator_bit : ∀ n < 16, ∀ b : Bool,
    timesGenerator (if b then 1#16 <<< n else 0#16) = generatorTerm b n := by
  decide +kernel

/-- A shift step multiplies by x and takes the generator off where the degree would become 8. -/
theorem setWidth_shiftLeft_one (c : Byte) :
    c.setWidth 24 <<< 1 = generatorTerm (c.getLsbD 7) 0 ^^^ (crcShift c).setWidth 24 := by
  revert c; decide +kernel

/-- `n` shift steps leave the remainder of `c` times x^n. -/
theorem exists_quotient_shiftLeft {n : Nat} (hn : n ≤ 16) (c : Byte) :
    ∃ q, c.setWidth 24 <<< n = timesGenerator q ^^^ (crcShifts n c).setWidth 24 := by
  induction n generalizing c with
  | zero => exact ⟨0#16, by rw [BitVec.shiftLeft_zero, timesGenerator_zero, BitVec.zero_xor, crcShifts_zero]⟩
  | succ n ih =>
    obtain ⟨q, hq⟩ := ih (by omega) (crcShift c)
    refine ⟨(if c.getLsbD 7 then 1#16 <<< n else 0#16) ^^^ q, ?_⟩
    have hterm : generatorTerm (c.getLsbD 7) 0 <<< n = generatorTerm (c.getLsbD 7) n := by
      cases c.getLsbD 7 <;> simp [generatorTerm]
    rw [Nat.add_comm, BitVec.shiftLeft_add, setWidth_shiftLeft_one, BitVec.shiftLeft_xor_distrib, hq, hterm,
      timesGenerator_xor, timesGenerator_bit n (by omega), BitVec.xor_assoc, Nat.add_comm, crcShifts_succ]

theorem append_append_zero (x y : Byte) :
    x ++ y ++ 0#8 = (x.setWidth 24 <<< 16) ^^^ (y.setWidth 24 <<< 8) := by
  refine BitVec.eq_of_getLsbD_eq fun i hi => ?_
  simp only [BitVec.getLsbD_append, BitVec.getLsbD_xor, BitVec.getLsbD_shiftLeft, BitVec.getLsbD_setWidth]
  interval_cases i <;> simp

theorem exists_quotient_crcDividend (b0 b1 : Byte) :
    ∃ q, crcDividend b0 b1 = timesGenerator q ^^^ (crc8 b0 b1).setWidth 24 := by
  obtain ⟨q₀, h₀⟩ := exists_quotient_shiftLeft (n := 16) (by decide) (crcInit ^^^ b0)
  obtain ⟨q₁, h₁⟩ := exists_quotient_shiftLeft (n := 8) (by decide) b1
  have hcrc : crc8 b0 b1 = crcShifts 16 (crcInit ^^^ b0) ^^^ crcShifts 8 b1 := by
    rw [crc8_eq_crcT, crcT_xor, crcShifts_add 8 8]
    rfl
  have hdividend : crcDividend b0 b1 = (crcInit ^^^ b0).setWidth 24 <<< 16 ^^^ b1.setWidth 24 <<< 8 :=
    (append_append_zero _ b1).trans (by rw [BitVec.xor_comm b0, crcInit])
  refine ⟨q₀ ^^^ q₁, ?_⟩
  rw [hdividend, h₀, h₁, timesGenerator_xor, hcrc, BitVec.setWidth_xor]
  ac_rfl

end Sys2Proof.Machine
end

section
/-! SUPPORT. Changes of a word (41_crc8.md R56): what a change does to the check depends on the change alone, through
its syndrome, which is linear. Changes of odd weight and of weight 2 have a syndrome that is not zero. -/

namespace Sys2Proof.Machine

theorem wordOfBits_wordBits (w : RawWord) : wordOfBits (wordBits w) = w := by
  have hhi : (wordBits w).extractLsb' 16 8 = w.hi :=
    (BitVec.extractLsb'_append_eq_of_le (by decide)).trans BitVec.extractLsb'_append_eq_left
  have hlo : (wordBits w).extractLsb' 8 8 = w.lo :=
    (BitVec.extractLsb'_append_eq_of_le (by decide)).trans BitVec.extractLsb'_append_eq_right
  have hcrc : (wordBits w).extractLsb' 0 8 = w.crc := BitVec.extractLsb'_append_eq_right
  rw [wordOfBits, hhi, hlo, hcrc]

theorem corrupt_eq (w : RawWord) (e : Bits24) :
    corrupt w e = ⟨w.hi ^^^ (wordOfBits e).hi, w.lo ^^^ (wordOfBits e).lo, w.crc ^^^ (wordOfBits e).crc⟩ := by
  calc corrupt w e
    _ = ⟨(wordOfBits (wordBits w)).hi ^^^ (wordOfBits e).hi, (wordOfBits (wordBits w)).lo ^^^ (wordOfBits e).lo,
          (wordOfBits (wordBits w)).crc ^^^ (wordOfBits e).crc⟩ := by
      simp only [corrupt, wordOfBits, BitVec.extractLsb'_xor]
    _ = _ := by rw [wordOfBits_wordBits]

/-- The checksum byte a change of the payload asks for, against the change of the checksum byte. -/
def syndrome (e : Bits24) : Byte :=
  crcT (crcT (wordOfBits e).hi ^^^ (wordOfBits e).lo) ^^^ (wordOfBits e).crc

theorem syndrome_wordBits (a b c : Byte) : syndrome (wordBits ⟨a, b, c⟩) = crcT (crcT a ^^^ b) ^^^ c := by
  rw [syndrome, wordOfBits_wordBits]

theorem syndrome_xor (e f : Bits24) : syndrome (e ^^^ f) = syndrome e ^^^ syndrome f := by
  simp only [syndrome, wordOfBits, BitVec.extractLsb'_xor, crcT_xor]
  ac_rfl

/-- A change of a valid word is undetected exactly when its syndrome is zero. -/
theorem wordValid_corrupt_iff {w : RawWord} (hw : crc8 w.hi w.lo = w.crc) (e : Bits24) :
    wordValid (corrupt w e) = true ↔ syndrome e = 0#8 := by
  rw [wordValid_iff, corrupt_eq, crc8_xor, hw, BitVec.xor_right_inj, syndrome, BitVec.xor_eq_zero_iff]

/-- Whether an odd number of the first `n` bits are one. -/
def parity (p : Nat → Bool) : Nat → Bool
  | 0 => false
  | n + 1 => parity p n ^^ p n

theorem parity_xor (p q : Nat → Bool) (n : Nat) :
    parity (fun i => p i ^^ q i) n = (parity p n ^^ parity q n) := by
  induction n with
  | zero => rfl
  | succ n ih =>
    rw [parity, ih, parity, parity]
    simp only [Bool.xor_assoc, Bool.xor_left_comm]

theorem parity_add (p : Nat → Bool) (m n : Nat) :
    parity p (m + n) = (parity p m ^^ parity (fun i => p (m + i)) n) := by
  induction n with
  | zero => exact (Bool.xor_false _).symm
  | succ n ih => rw [Nat.add_succ, parity, ih, parity, Bool.xor_assoc]

theorem odd_length_filter_range (p : Nat → Bool) (n : Nat) :
    decide (((List.range n).filter p).length % 2 = 1) = parity p n := by
  induction n with
  | zero => rfl
  | succ n ih =>
    rw [List.range_succ, List.filter_append, List.length_append, parity, ← ih]
    cases hp : p n
    · simp [hp]
    · rw [List.filter_cons_of_pos hp, List.filter_nil, List.length_singleton, Bool.xor_true, ← decide_not,
        decide_eq_decide]
      omega

/-- Whether a byte has an odd number of one bits. -/
def byteParity (b : Byte) : Bool := parity b.getLsbD 8

theorem byteParity_xor (x y : Byte) : byteParity (x ^^^ y) = (byteParity x ^^ byteParity y) := by
  rw [byteParity, byteParity, byteParity, ← parity_xor]
  exact congrArg (parity · 8) (funext fun _ => BitVec.getLsbD_xor)

theorem byteParity_shiftLeft_one (c : Byte) : byteParity (c <<< 1) = (byteParity c ^^ c.getLsbD 7) := by
  simp [byteParity, parity]

theorem byteParity_crcFeedback (b : Bool) : byteParity (crcFeedback b) = b := by
  cases b <;> decide

/-- The bit that leaves the register is made up for by the three taps. -/
theorem byteParity_crcShift (c : Byte) : byteParity (crcShift c) = byteParity c := by
  rw [crcShift_eq, byteParity_xor, byteParity_shiftLeft_one, byteParity_crcFeedback, Bool.xor_assoc, Bool.xor_self,
    Bool.xor_false]

theorem byteParity_crcShifts (n : Nat) (c : Byte) : byteParity (crcShifts n c) = byteParity c := by
  induction n generalizing c with
  | zero => rfl
  | succ n ih => rw [crcShifts_succ, ih, byteParity_crcShift]

theorem byteParity_crcT (x : Byte) : byteParity (crcT x) = byteParity x := byteParity_crcShifts 8 x

theorem byteParity_syndrome (e : Bits24) : byteParity (syndrome e) =
    (byteParity (wordOfBits e).hi ^^ byteParity (wordOfBits e).lo ^^ byteParity (wordOfBits e).crc) := by
  rw [syndrome, byteParity_xor, byteParity_crcT, byteParity_xor, byteParity_crcT]

theorem byteParity_extractLsb' (e : Bits24) (k : Nat) :
    byteParity (e.extractLsb' k 8) = parity (fun i => e.getLsbD (k + i)) 8 := by
  simp [byteParity, parity, -BitVec.getLsbD_eq_getElem]

theorem odd_weight_eq_byteParity_syndrome (e : Bits24) : decide (weight e % 2 = 1) = byteParity (syndrome e) := by
  have hzero : parity e.getLsbD 8 = parity (fun i => e.getLsbD (0 + i)) 8 := by simp only [Nat.zero_add]
  have hbytes : parity e.getLsbD (8 + 8 + 8) = (byteParity (e.extractLsb' 0 8) ^^ byteParity (e.extractLsb' 8 8) ^^
      byteParity (e.extractLsb' 16 8)) := by
    rw [parity_add, parity_add, hzero, byteParity_extractLsb', byteParity_extractLsb', byteParity_extractLsb']
  rw [weight, odd_length_filter_range, byteParity_syndrome, hbytes, Bool.xor_comm, ← Bool.xor_assoc,
    Bool.xor_right_comm]
  rfl

theorem syndrome_ne_zero_of_odd_weight {e : Bits24} (h : weight e % 2 = 1) : syndrome e ≠ 0#8 := fun hzero => by
  have hparity := odd_weight_eq_byteParity_syndrome e
  rw [hzero, decide_eq_true h] at hparity
  exact absurd hparity (by decide)

/-- A change of weight 2 is the sum of two single bits. -/
theorem eq_twoPow_xor_twoPow_of_weight_eq_two {e : Bits24} (h : weight e = 2) :
    ∃ i < 24, ∃ j < 24, i ≠ j ∧ e = BitVec.twoPow 24 i ^^^ BitVec.twoPow 24 j := by
  obtain ⟨i, j, hij⟩ := List.length_eq_two.1 h
  have hmem : ∀ k, k < 24 ∧ e.getLsbD k = true ↔ k = i ∨ k = j := fun k => by
    rw [← List.mem_range, ← List.mem_filter (p := fun k => e.getLsbD k), hij, List.mem_pair]
  have hne : i ≠ j := by
    have hnodup := (List.nodup_range (n := 24)).filter (fun k => e.getLsbD k)
    rw [hij] at hnodup
    simpa using hnodup
  have hi := (hmem i).2 (.inl rfl)
  have hj := (hmem j).2 (.inr rfl)
  refine ⟨i, hi.1, j, hj.1, hne, BitVec.eq_of_getLsbD_eq fun k hk => ?_⟩
  rw [BitVec.getLsbD_xor, BitVec.getLsbD_twoPow, BitVec.getLsbD_twoPow, Bool.eq_iff_iff]
  have hk' := hmem k
  grind

/-- The syndrome of bit `k` is the remainder of x^k. -/
theorem syndrome_twoPow : ∀ k < 24, syndrome (BitVec.twoPow 24 k) = crcShifts k 1#8 := by
  decide +kernel

/-- The powers of x do not come back to 1 within the length of a word. -/
theorem crcShifts_one_ne_one : ∀ k < 24, 0 < k → crcShifts k 1#8 ≠ 1#8 := by
  decide +kernel

theorem syndrome_twoPow_ne_of_lt {i j : Nat} (hij : i < j) (hj : j < 24) :
    syndrome (BitVec.twoPow 24 i) ≠ syndrome (BitVec.twoPow 24 j) := fun h => by
  obtain ⟨k, rfl⟩ := Nat.exists_eq_add_of_le' hij.le
  rw [syndrome_twoPow i (by omega), syndrome_twoPow _ hj, crcShifts_add] at h
  exact crcShifts_one_ne_one k (by omega) (by omega) (crcShifts_injective i h).symm

theorem syndrome_ne_zero_of_weight_eq_two {e : Bits24} (h : weight e = 2) : syndrome e ≠ 0#8 := by
  obtain ⟨i, hi, j, hj, hne, rfl⟩ := eq_twoPow_xor_twoPow_of_weight_eq_two h
  rw [syndrome_xor, Ne, BitVec.xor_eq_zero_iff]
  obtain hij | hij := Nat.lt_or_gt_of_ne hne
  · exact syndrome_twoPow_ne_of_lt hij hj
  · exact (syndrome_twoPow_ne_of_lt hij hi).symm

end Sys2Proof.Machine
end

section
/-! SUPPORT. The two outcomes of CRC8 and VALIDATE in IDLE (41_crc8.md R53, R54): with the right operand count a
result, with any other InvalidLength. -/

namespace Sys2Proof.Machine

/-- A row of the operation map on an operand count that does not fit, in IDLE: its error (60_exceptions.md R91). -/
theorem runRow_not_fits {row : OpRow} {d : List Byte} {s : State} (hp : s.phase = .idle)
    (hfit : needFits row.need d.length = false) : runRow row d s = .next (answered (errorResponse row.error) s) := by
  rw [runRow, if_neg (by rw [hfit]; exact nofun), raise_idle hp]

theorem needFits_exactly_of_ne {k n : Nat} (h : n ≠ k) : needFits (.exactly k) n = false := beq_false_of_ne h

theorem exec_crc8_idle {s : State} (hp : s.phase = .idle) (d0 d1 : Byte) :
    exec (.crc8 [d0, d1]) s = .next (answered (okResponse [crc8 d0 d1]) (crcReleased s)) :=
  deliver_idle (s := crcReleased s) hp _

theorem exec_crc8_wrong_count {s : State} (hp : s.phase = .idle) {d : List Byte} (hd : d.length ≠ 2) :
    exec (.crc8 d) s = .next (answered (errorResponse .invalidLength) s) :=
  (execCrc8_eq_runRow d s).trans (runRow_not_fits hp (needFits_exactly_of_ne hd))

/-- VALIDATE of a word answers its validity. -/
theorem exec_validate_idle {s : State} (hp : s.phase = .idle) (w : RawWord) :
    exec (.validate (wordBytes w)) s = .next (answered (okResponse [truthByte (wordValid w)]) (crcReleased s)) :=
  deliver_idle (s := crcReleased s) hp _

theorem exec_validate_wrong_count {s : State} (hp : s.phase = .idle) {d : List Byte} (hd : d.length ≠ 3) :
    exec (.validate d) s = .next (answered (errorResponse .invalidLength) s) :=
  (execValidate_eq_runRow d s).trans (runRow_not_fits hp (needFits_exactly_of_ne hd))

theorem exec_validate_bytes {s : State} (hp : s.phase = .idle) (d0 d1 d2 : Byte) :
    exec (.validate [d0, d1, d2]) s =
      .next (answered (okResponse [if crc8 d0 d1 = d2 then 0x01#8 else 0x00#8]) (crcReleased s)) :=
  (exec_validate_idle hp ⟨d0, d1, d2⟩).trans (by simp only [truthByte, wordValid_iff])

theorem truthByte_eq_one_iff (b : Bool) : truthByte b = 0x01#8 ↔ b = true := by
  cases b <;> decide

theorem truthByte_eq_zero_iff (b : Bool) : truthByte b = 0x00#8 ↔ ¬ b = true := by
  cases b <;> decide

/-- VALIDATE of a valid word answers 01. -/
theorem exec_validate_valid {s : State} (hp : s.phase = .idle) {w : RawWord} (hw : crc8 w.hi w.lo = w.crc) :
    ∃ t, exec (.validate (wordBytes w)) s = .next t ∧ t.rsp = ⟨0x00#8, [0x01#8]⟩ :=
  ⟨_, exec_validate_idle hp w, by rw [answered_rsp, (wordValid_iff w).2 hw]; rfl⟩

/-- VALIDATE of a valid word with a change whose syndrome is not zero answers 00. -/
theorem exec_validate_corrupt {s : State} (hp : s.phase = .idle) {w : RawWord} (hw : crc8 w.hi w.lo = w.crc)
    {e : Bits24} (he : syndrome e ≠ 0#8) :
    ∃ t, exec (.validate (wordBytes (corrupt w e))) s = .next t ∧ t.rsp = ⟨0x00#8, [0x00#8]⟩ := by
  have hinvalid : wordValid (corrupt w e) = false := by
    rw [← Bool.not_eq_true, wordValid_corrupt_iff hw]; exact he
  exact ⟨_, exec_validate_idle hp _, by rw [answered_rsp, hinvalid]; rfl⟩

end Sys2Proof.Machine
end

section
/-! PROOF. The CRC unit (41_crc8.md). -/

namespace Sys2Proof.Machine

/-- Settles O20: the two outcomes in IDLE; `T` is invertible, so each byte is recovered from the other and the
checksum. -/
theorem crc8ComputesTheChecksum : Obligations.Crc8ComputesTheChecksum := by
  refine ⟨fun s d0 d1 hp => ⟨_, _, exec_crc8_idle hp d0 d1⟩, fun s d hp hd => exec_crc8_wrong_count hp hd,
    fun d0 d1 => rfl, crc8_zero_zero, crc8_FF_FF, crc8_BE_EF, fun b => ⟨fun h => ?_, fun h => h ▸ crc8_FF_zero⟩,
    fun d0 => ?_, fun d1 => ?_, ncard_crc8_eq⟩
  · exact crc8_injective_left 0x00#8 (h.trans crc8_FF_zero.symm)
  · exact Finite.injective_iff_bijective.1 (crc8_injective_right d0)
  · exact Finite.injective_iff_bijective.1 (crc8_injective_left d1)

/-- Settles O21: the two outcomes in IDLE; the residue is `T` of the difference of checksum and third byte. -/
theorem validateChecksTheWord : Obligations.ValidateChecksTheWord := by
  refine ⟨fun s d0 d1 d2 hp => ⟨_, _, exec_validate_bytes hp d0 d1 d2⟩,
    fun s d hp hd => exec_validate_wrong_count hp hd, fun d0 d1 d2 => rfl, by rw [crc8_zero_zero]; decide, crc8_FF_zero,
    crc8_zero_zero, by rw [crc8_FF_FF]; decide, crc8_BE_EF, fun d0 d1 d2 => ?_⟩
  have hresidue : crcResidue ⟨d0, d1, d2⟩ = crcT (crc8 d0 d1 ^^^ d2) := by rw [crcResidue, crc8_eq_crcT, crcInit]
  rw [hresidue, crcT_eq_zero_iff, BitVec.xor_eq_zero_iff]

/-- Settles O22: what VALIDATE answers is the validity of the word. -/
theorem checkValueAndValidateAgreeWithTheSource : Obligations.CheckValueAndValidateAgreeWithTheSource := by
  refine ⟨crc8_BE_EF, fun w s hp =>
    ⟨_, _, exec_crc8_idle hp w.hi w.lo, rfl, exec_validate_idle hp w, rfl, ?_, ?_⟩⟩
  · rw [answered_rsp, okResponse_q, List.singleton_inj, truthByte_eq_one_iff, wordValid_iff, eq_comm]
  · rw [answered_rsp, okResponse_q, List.singleton_inj, truthByte_eq_zero_iff, wordValid_iff, eq_comm]

/-- The bit equations, evaluated for each of the 256 bytes. -/
theorem getLsbD_crcT : ∀ x : Byte, ∀ k < 8, (crcT x).getLsbD k = crcTBit x k := by
  decide +kernel

/-- The printed table, evaluated entry by entry. -/
theorem crcTable_eq_map : crcTable = (List.range 256).map fun n => crcT (BitVec.ofNat 8 n) := by
  decide +kernel

theorem crcTable_getElem? (x : Byte) : crcTable[x.toNat]? = some (crcT x) := by
  rw [crcTable_eq_map, List.getElem?_map, List.getElem?_range x.isLt, Option.map_some, BitVec.ofNat_toNat,
    BitVec.setWidth_eq]

/-- Settles O23: form (a), with the printed table and the printed bit equations. -/
theorem byteStepFormComputesCrc8 : Obligations.ByteStepFormComputesCrc8 := by
  refine ⟨crc8_eq_crcT, crcT_xor, crcTable_getElem?, fun x k => ?_⟩
  obtain hk | hk := Nat.lt_or_ge k 8
  · exact getLsbD_crcT x k hk
  · obtain ⟨n, rfl⟩ := Nat.exists_eq_add_of_le' hk
    exact BitVec.getLsbD_of_ge _ _ (by omega)

/-- Settles O24: each message byte enters the register by its bits, top bit first. -/
theorem bitSerialFormComputesCrc8 : Obligations.BitSerialFormComputesCrc8 :=
  ⟨crc8_eq_crcSerial, fun c d _ => getLsbD_crcSerialStep c d⟩

/-- Settles O25: the first byte is divided over 16 shift steps and the second over 8. -/
theorem crc8IsThePolynomialRemainder : Obligations.Crc8IsThePolynomialRemainder :=
  exists_quotient_crcDividend

/-- Settles O26: weights 1 and 3 are odd, and two single bits have different syndromes. -/
theorem upToThreeInvertedBitsAreDetected : Obligations.UpToThreeInvertedBitsAreDetected := by
  intro w e s hp hw hlo hhi
  have he : syndrome e ≠ 0#8 := by
    obtain hodd | htwo : weight e % 2 = 1 ∨ weight e = 2 := by omega
    · exact syndrome_ne_zero_of_odd_weight hodd
    · exact syndrome_ne_zero_of_weight_eq_two htwo
  exact ⟨exec_validate_valid hp hw, exec_validate_corrupt hp hw he⟩

/-- Settles O27: `T` keeps the parity of a byte, so a change of odd weight has a syndrome of odd weight. -/
theorem oddNumbersOfInvertedBitsAreDetected : Obligations.OddNumbersOfInvertedBitsAreDetected :=
  fun _ _ _ hp hw hodd => exec_validate_corrupt hp hw (syndrome_ne_zero_of_odd_weight hodd)

/-- Settles O28: a change is undetected exactly when its syndrome is zero; that of 00 01 31 is. -/
theorem undetectedChangesAreTheCodewords : Obligations.UndetectedChangesAreTheCodewords := by
  refine ⟨fun a a' b b' => ?_, fun w a b c hw => ?_, by decide +kernel, fun w hw => ?_⟩
  · rw [crc8_xor, crcT_crcT_xor_eq, BitVec.xor_assoc]
  · rw [wordValid_corrupt_iff hw, syndrome_wordBits, BitVec.xor_eq_zero_iff, eq_comm]
  · exact (wordValid_corrupt_iff hw _).2 (by decide +kernel)

end Sys2Proof.Machine
end

section
/-! SUPPORT. The host's procedures (30_encoding.md R43) as sequences of transactions: what a procedure answers from
every idle session and what it issues, composed step by step. -/

namespace Sys2Proof.Machine

/-- A host procedure: from a session to its value and the session it leaves. -/
abbrev Procedure (α : Type) := Session → Host.Outcome (α × Session) Fault Refusal

/-- The procedure that issues nothing and answers `a`. -/
def report {α : Type} (a : α) : Procedure α := fun x => .next (a, x)

/-- One procedure after another: the second goes on with the value and the session of the first. -/
def thenDo {α β : Type} (p : Procedure α) (k : α → Procedure β) : Procedure β :=
  fun x => andThen (p x) fun v => k v.1 v.2

/-- From every idle session the procedure `p` completes with the value `a`, has issued the requests `rs`, and leaves
the block idle. -/
def Completes {α : Type} (p : Procedure α) (a : α) (rs : List Request) : Prop :=
  ∀ x, x.state.phase = .idle → ∃ y, p x = .next (a, y) ∧ y.state.phase = .idle ∧ y.issued = x.issued ++ rs

theorem report_completes {α : Type} (a : α) : Completes (report a) a [] :=
  fun x hp => ⟨x, rfl, hp, (List.append_nil _).symm⟩

theorem thenDo_completes {α β : Type} {p : Procedure α} {k : α → Procedure β} {a : α} {b : β} {rs rs' : List Request}
    (hfirst : Completes p a rs) (hrest : Completes (k a) b rs') : Completes (thenDo p k) b (rs ++ rs') := by
  intro x hp
  obtain ⟨y, hy, hpy, hissued⟩ := hfirst x hp
  obtain ⟨z, hz, hpz, hissued'⟩ := hrest y hpy
  exact ⟨z, by rw [thenDo, hy, andThen_next, hz], hpz, by rw [hissued', hissued, List.append_assoc]⟩

/-- One transaction answers the function of 10_state.md R17 and leaves the block idle again. -/
theorem transact_completes {i : Instr} (hw : i.wf = true) : Completes (transact i) (answer i.request) [i.request] := by
  intro x hp
  obtain ⟨c, n, hissue⟩ := issueRequest_idle (r := i.request) hw hp
  exact ⟨_, by rw [transact, hissue, andThen_next, takeResponse_done rfl, andThen_next], rfl, rfl⟩

/-- The request that validates a word (41_crc8.md R54). -/
def validateRequest (w : RawWord) : Request := (Instr.validate (wordBytes w)).request

theorem answer_validateRequest (w : RawWord) : answer (validateRequest w) = okResponse [truthByte (wordValid w)] := by
  simp only [truthByte, wordValid_iff]
  rfl

theorem transact_validate_completes (w : RawWord) :
    Completes (transact (.validate (wordBytes w))) (okResponse [truthByte (wordValid w)]) [validateRequest w] :=
  answer_validateRequest w ▸ transact_completes (i := .validate (wordBytes w)) rfl

theorem transact_fdec_completes (d0 d1 d2 d3 : Byte) :
    Completes (transact (.fdec [d0, d1, d2, d3])) (okResponse [d0, d1, d2, d3]) [(Instr.fdec [d0, d1, d2, d3]).request] :=
  transact_completes (i := .fdec [d0, d1, d2, d3]) rfl

/-- The host's test of VALIDATE's result byte reads the word's validity (42_float_decoder.md R66). -/
theorem truthByte_beq_one (b : Bool) : ([truthByte b] == [0x01#8]) = b := by
  cases b <;> decide

/-- Every word is validated, whatever the earlier results (42_float_decoder.md R67). -/
theorem validateWords_completes (ws : List RawWord) :
    Completes (validateWords ws) (ws.map wordValid) (ws.map validateRequest) := by
  induction ws with
  | nil => exact report_completes []
  | cons w ws ih =>
    have hstep : validateWords (w :: ws) = thenDo (transact (.validate (wordBytes w))) fun r =>
        thenDo (validateWords ws) fun vs => report ((r.q == [0x01#8]) :: vs) := rfl
    have hrest := thenDo_completes (k := fun vs => report (wordValid w :: vs)) ih (report_completes _)
    rw [List.append_nil] at hrest
    rw [hstep]
    refine thenDo_completes (transact_validate_completes w) ?_
    rwa [okResponse_q, truthByte_beq_one]

theorem all_map_wordValid_iff (ws : List RawWord) :
    (ws.map wordValid).all id = true ↔ ∀ w ∈ ws, crc8 w.hi w.lo = w.crc := by
  simp only [List.all_map, List.all_eq_true, Function.comp_apply, id, wordValid_iff]

/-- The shape FDECW and MDEC share: validate all the words, then go on with `p` only if every result was true. -/
def validatedThen {α : Type} (ws : List RawWord) (p : Procedure (HostReport α)) : Procedure (HostReport α) :=
  thenDo (validateWords ws) fun vs y => if vs.all id then p y else report .checksumError y

theorem validatedThen_valid {α : Type} {ws : List RawWord} {p : Procedure (HostReport α)} {a : HostReport α}
    {rs : List Request} (hws : ∀ w ∈ ws, crc8 w.hi w.lo = w.crc) (hp : Completes p a rs) :
    Completes (validatedThen ws p) a (ws.map validateRequest ++ rs) :=
  thenDo_completes (validateWords_completes ws) (by simpa only [if_pos ((all_map_wordValid_iff ws).2 hws)] using hp)

theorem validatedThen_invalid {α : Type} {ws : List RawWord} (p : Procedure (HostReport α))
    (hws : ¬ ∀ w ∈ ws, crc8 w.hi w.lo = w.crc) :
    Completes (validatedThen ws p) .checksumError (ws.map validateRequest) := by
  rw [← List.append_nil (ws.map validateRequest)]
  refine thenDo_completes (validateWords_completes ws) ?_
  simpa only [if_neg (mt (all_map_wordValid_iff ws).1 hws)] using report_completes (HostReport.checksumError (α := α))

/-- From an idle session: all valid, and `p` runs to its end; else ChecksumError, with nothing but VALIDATEs issued. -/
theorem validatedThen_allOrNothing {α : Type} {ws : List RawWord} {p : Procedure (HostReport α)} {a : HostReport α}
    {rs : List Request} (hcomp : Completes p a rs) {x : Session} (hp : x.state.phase = .idle) :
    ∃ y, y.state.phase = .idle ∧
      ((∀ w ∈ ws, crc8 w.hi w.lo = w.crc) →
        validatedThen ws p x = .next (a, y) ∧ y.issued = x.issued ++ (ws.map validateRequest ++ rs)) ∧
      ((¬ ∀ w ∈ ws, crc8 w.hi w.lo = w.crc) →
        validatedThen ws p x = .next (.checksumError, y) ∧ y.issued = x.issued ++ ws.map validateRequest) := by
  by_cases hws : ∀ w ∈ ws, crc8 w.hi w.lo = w.crc
  · obtain ⟨y, hy, hpy, hissued⟩ := validatedThen_valid hws hcomp x hp
    exact ⟨y, hpy, fun _ => ⟨hy, hissued⟩, fun hbad => absurd hws hbad⟩
  · obtain ⟨y, hy, hpy, hissued⟩ := validatedThen_invalid p hws x hp
    exact ⟨y, hpy, fun hgood => absurd hgood hws, fun _ => ⟨hy, hissued⟩⟩

/-- FDEC of four bytes, its result bytes delivered (42_float_decoder.md R66). -/
def deliverPattern (d0 d1 d2 d3 : Byte) : Procedure (HostReport (List Byte)) :=
  thenDo (transact (.fdec [d0, d1, d2, d3])) fun r => report (.delivered r.q)

theorem deliverPattern_completes (d0 d1 d2 d3 : Byte) :
    Completes (deliverPattern d0 d1 d2 d3) (.delivered [d0, d1, d2, d3]) [(Instr.fdec [d0, d1, d2, d3]).request] :=
  thenDo_completes (transact_fdec_completes d0 d1 d2 d3) (report_completes _)

theorem fdecw_eq (w0 w1 : RawWord) :
    fdecw w0 w1 = validatedThen [w0, w1] (deliverPattern w0.hi w0.lo w1.hi w1.lo) := rfl

/-- The three FDECs of a measurement answer, their result bytes delivered (42_float_decoder.md R67). -/
def deliverReading (b : Vector Byte 18) : Procedure (HostReport Reading) :=
  thenDo (transact (.fdec [b[0], b[1], b[3], b[4]])) fun rc =>
    thenDo (transact (.fdec [b[6], b[7], b[9], b[10]])) fun rt =>
      thenDo (transact (.fdec [b[12], b[13], b[15], b[16]])) fun rh => report (.delivered ⟨rc.q, rt.q, rh.q⟩)

theorem deliverReading_completes (b : Vector Byte 18) :
    Completes (deliverReading b)
      (.delivered ⟨[b[0], b[1], b[3], b[4]], [b[6], b[7], b[9], b[10]], [b[12], b[13], b[15], b[16]]⟩)
      [(Instr.fdec [b[0], b[1], b[3], b[4]]).request, (Instr.fdec [b[6], b[7], b[9], b[10]]).request,
        (Instr.fdec [b[12], b[13], b[15], b[16]]).request] :=
  thenDo_completes (transact_fdec_completes b[0] b[1] b[3] b[4]) <|
    thenDo_completes (transact_fdec_completes b[6] b[7] b[9] b[10]) <|
      thenDo_completes (transact_fdec_completes b[12] b[13] b[15] b[16]) (report_completes _)

theorem mdec_eq (b : Vector Byte 18) : mdec b = validatedThen (answerWords b) (deliverReading b) := rfl

end Sys2Proof.Machine
end

section
/-! SUPPORT. The two outcomes of FDEC in IDLE (42_float_decoder.md R62), and patterns as bytes and as numbers. -/

namespace Sys2Proof.Machine

theorem exec_fdec_idle {s : State} (hp : s.phase = .idle) (d0 d1 d2 d3 : Byte) (rest : List Byte) :
    exec (.fdec (d0 :: d1 :: d2 :: d3 :: rest)) s = .next (answered (okResponse [d0, d1, d2, d3]) s) :=
  deliver_idle hp _

theorem exec_fdec_too_short {s : State} (hp : s.phase = .idle) {d : List Byte} (hd : d.length < 4) :
    exec (.fdec d) s = .next (answered (errorResponse .malformedFloatEncoding) s) :=
  (execFdec_eq_runRow d s).trans (runRow_not_fits hp (decide_eq_false (Nat.not_le.2 hd)))

/-- The four bytes of a pattern, the first in bits 31:24, assemble to it again (42_float_decoder.md R60). -/
theorem patternOf_extractLsb' (f : Pattern) :
    patternOf (f.extractLsb' 24 8) (f.extractLsb' 16 8) (f.extractLsb' 8 8) (f.extractLsb' 0 8) = f := by
  have h₁ : f.extractLsb' 24 8 ++ f.extractLsb' 16 8 = f.extractLsb' 16 16 :=
    BitVec.extractLsb'_append_extractLsb'_eq_extractLsb' rfl
  have h₂ : f.extractLsb' 16 16 ++ f.extractLsb' 8 8 = f.extractLsb' 8 24 :=
    BitVec.extractLsb'_append_extractLsb'_eq_extractLsb' rfl
  have h₃ : f.extractLsb' 8 24 ++ f.extractLsb' 0 8 = f.extractLsb' 0 32 :=
    BitVec.extractLsb'_append_extractLsb'_eq_extractLsb' rfl
  rw [patternOf, h₁, h₂, h₃, BitVec.extractLsb'_eq_self]

/-- The rational value of a pattern, from its sign, mantissa and exponent (42_float_decoder.md R61). -/
theorem toRat_floatVal_of_finite {f : Pattern} {sign : Bool} {mantissa : Nat} {exponent : Int} {q : Rat}
    (hf : floatVal f = .finite sign mantissa exponent)
    (hq : (if sign then -1 else 1) * (mantissa : Rat) * (2 : Rat) ^ exponent = q) : (floatVal f).toRat = some q := by
  rw [hf, FloatVal.toRat, hq]

end Sys2Proof.Machine
end

section
/-! PROOF. The float decoder (42_float_decoder.md) and the host procedures FDECW and MDEC. -/

namespace Sys2Proof.Machine

/-- Settles O44: both words are validated; the four payload bytes are decoded only if both are valid. -/
theorem fdecwDeliversOnlyValidatedPayload : Obligations.FdecwDeliversOnlyValidatedPayload := by
  intro w0 w1 x hp
  have hwords : (∀ w ∈ [w0, w1], crc8 w.hi w.lo = w.crc) ↔
      crc8 w0.hi w0.lo = w0.crc ∧ crc8 w1.hi w1.lo = w1.crc := by
    rw [List.forall_mem_cons, List.forall_mem_singleton]
  rw [fdecw_eq, ← hwords]
  exact validatedThen_allOrNothing (deliverPattern_completes w0.hi w0.lo w1.hi w1.lo) hp

/-- Settles O45: all six words are validated; the three patterns are decoded only if all are valid. -/
theorem mdecIsAllOrNothing : Obligations.MdecIsAllOrNothing := by
  intro b x hp
  rw [mdec_eq]
  obtain ⟨y, hpy, hvalid, hinvalid⟩ :=
    validatedThen_allOrNothing (ws := answerWords b) (deliverReading_completes b) hp
  rw [← List.append_assoc] at hvalid
  exact ⟨y, hpy, hvalid, fun ⟨w, hmem, hbad⟩ => hinvalid fun hall => hbad (hall w hmem)⟩

/-- Settles O30: the pattern's bytes are what FDEC answers, and they assemble to it. -/
theorem everyPatternPassesBitForBit : Obligations.EveryPatternPassesBitForBit := fun f _ hp =>
  ⟨_, _, _, _, rfl, patternOf_extractLsb' f, rfl, rfl, rfl, rfl, exec_fdec_idle hp _ _ _ _ []⟩

/-- Settles O46: both wrapped halves are valid, so FDECW delivers the pattern's bytes. -/
theorem floatDecodeRoundTrips : Obligations.FloatDecodeRoundTrips := by
  intro f x hp
  obtain ⟨p0, p1, p2, p3, hbytes, hpattern, -⟩ := everyPatternPassesBitForBit f x.state hp
  obtain ⟨y, -, hvalid, -⟩ :=
    fdecwDeliversOnlyValidatedPayload ⟨p0, p1, crc8 p0 p1⟩ ⟨p2, p3, crc8 p2 p3⟩ x hp
  obtain ⟨hdelivered, -⟩ := hvalid ⟨rfl, rfl⟩
  exact ⟨p0, p1, p2, p3, y, hbytes, hdelivered, hpattern⟩

/-- Settles O29: the two outcomes in IDLE; 43 C8 00 00 is 13107200 times two to the power -15. -/
theorem fdecAssemblesFourBytes : Obligations.FdecAssemblesFourBytes := by
  have hval : floatVal 0x43C80000#32 = .finite false 13107200 (-15) := by decide
  exact ⟨fun _ d0 d1 d2 d3 rest hp => exec_fdec_idle hp d0 d1 d2 d3 rest, fun _ _ hp hd => exec_fdec_too_short hp hd,
    fun _ _ _ _ => rfl, by decide, toRat_floatVal_of_finite hval (by norm_num)⟩

/-- Settles O31: each pattern's sign, mantissa and exponent are read off; four finite values are computed. -/
theorem floatPatternsDenoteTheirValues : Obligations.FloatPatternsDenoteTheirValues := by
  have h450 : floatVal 0x43E10000#32 = .finite false 14745600 (-15) := by decide
  have h40 : floatVal 0x42200000#32 = .finite false 10485760 (-18) := by decide
  have h1 : floatVal 0x3F800000#32 = .finite false 8388608 (-23) := by decide
  have hneg1 : floatVal 0xBF800000#32 = .finite true 8388608 (-23) := by decide
  refine ⟨toRat_floatVal_of_finite h450 (by norm_num), toRat_floatVal_of_finite h40 (by norm_num),
    toRat_floatVal_of_finite h1 (by norm_num), toRat_floatVal_of_finite hneg1 (by norm_num), ?_⟩
  decide

end Sys2Proof.Machine
end

section
/-! SUPPORT. Which operations are commands with and without argument (43_command_encoder.md R70, R72 to R80), and what
either kind answers in IDLE to a wrong operand count (R82). -/

namespace Sys2Proof.Machine

theorem exec_argumentCommand {f : List Byte → Instr} (hf : f ∈ [Instr.cmdStart, .cmdSetint]) :
    ∃ wop, ∀ d s, exec (f d) s = commandWithArgument wop d s := by
  fin_cases hf
  · exact ⟨wopStart, fun _ _ => rfl⟩
  · exact ⟨wopInterval, fun _ _ => rfl⟩

theorem exec_opcodeCommand {f : List Byte → Instr}
    (hf : f ∈ [Instr.cmdStop, .cmdRdy, .cmdRead, .cmdGetint, .cmdAsc, .cmdReset, .cmdFwver]) :
    ∃ wop, ∀ d s, exec (f d) s = commandWithoutArgument wop d s := by
  fin_cases hf
  · exact ⟨wopStop, fun _ _ => rfl⟩
  · exact ⟨wopReady, fun _ _ => rfl⟩
  · exact ⟨wopRead, fun _ _ => rfl⟩
  · exact ⟨wopInterval, fun _ _ => rfl⟩
  · exact ⟨wopAsc, fun _ _ => rfl⟩
  · exact ⟨wopReset, fun _ _ => rfl⟩
  · exact ⟨wopFwver, fun _ _ => rfl⟩

/-- A command with argument on any other count than 2, in IDLE (43_command_encoder.md R82). An error does not depend
on the row's OP, so CMD_START's row serves every opcode. -/
theorem commandWithArgument_wrong_count {s : State} (hp : s.phase = .idle) (wop : Half) {d : List Byte}
    (hd : d.length ≠ 2) : commandWithArgument wop d s = .next (answered (errorResponse .invalidLength) s) :=
  (commandWithArgument_eq_runRow (op := 0x20#8) (by decide) wop d s).trans
    (runRow_not_fits hp (needFits_exactly_of_ne hd))

/-- A command without argument on any operand byte, in IDLE (43_command_encoder.md R82); CMD_STOP's row serves every
opcode. -/
theorem commandWithoutArgument_wrong_count {s : State} (hp : s.phase = .idle) (wop : Half) {d : List Byte}
    (hd : d ≠ []) : commandWithoutArgument wop d s = .next (answered (errorResponse .invalidLength) s) :=
  (commandWithoutArgument_eq_runRow (op := 0x21#8) (by decide) wop d s).trans
    (runRow_not_fits hp (needFits_exactly_of_ne (mt List.length_eq_zero_iff.1 hd)))

end Sys2Proof.Machine
end

section
/-! PROOF. The command encoder's operations (43_command_encoder.md). -/

namespace Sys2Proof.Machine

/-- Settles O34: past its opcode a C5 frame is the RawWord of the argument and its checksum, which is valid; taking the
frame leaves the block idle for VALIDATE. -/
theorem frameArgumentIsAValidRawWord : Obligations.FrameArgumentIsAValidRawWord := by
  intro s d0 d1 f hp hf
  obtain ⟨wop, hexec⟩ := exec_argumentCommand hf
  obtain ⟨v, hvalidate, hv⟩ := exec_validate_valid (w := ⟨d0, d1, crc8 d0 d1⟩)
    (responseTaken_phase (answered (okResponse (frame5 wop d0 d1 (crc8 d0 d1))) (crcReleased s))) rfl
  exact ⟨_, _, v, (hexec _ s).trans (commandWithArgument_idle hp wop d0 d1), rfl, takeResponse_done rfl, hvalidate, hv⟩

/-- Settles O32: the two outcomes of a command with argument, with CMD_START's and CMD_SETINT's opcode; the checksums
are evaluated. -/
theorem commandsWithArgumentReturnTheirFrame : Obligations.CommandsWithArgumentReturnTheirFrame :=
  ⟨fun _ d0 d1 hp =>
      ⟨⟨_, _, commandWithArgument_idle hp wopStart d0 d1⟩, ⟨_, _, commandWithArgument_idle hp wopInterval d0 d1⟩⟩,
    fun _ _ hp hd =>
      ⟨commandWithArgument_wrong_count hp wopStart hd, commandWithArgument_wrong_count hp wopInterval hd⟩,
    fun _ _ => ⟨rfl, rfl⟩,
    by decide +kernel, by decide +kernel, by decide +kernel, by decide +kernel, crc8_zero_zero, crc8_FF_FF⟩

/-- Settles O33: the two outcomes of a command without argument, with the opcode of each; CMD_RESET is one of them. -/
theorem commandsWithoutArgumentReturnTheirOpcode : Obligations.CommandsWithoutArgumentReturnTheirOpcode := by
  refine ⟨fun s hp => ?_, fun s d f hp hd hf => ?_, rfl, rfl, rfl, rfl, rfl, rfl, rfl⟩
  · exact ⟨commandWithoutArgument_idle hp wopStop, commandWithoutArgument_idle hp wopReady,
      commandWithoutArgument_idle hp wopRead, commandWithoutArgument_idle hp wopInterval,
      commandWithoutArgument_idle hp wopAsc, commandWithoutArgument_idle hp wopReset,
      commandWithoutArgument_idle hp wopFwver⟩
  · obtain ⟨wop, hexec⟩ := exec_opcodeCommand hf
    exact (hexec d s).trans (commandWithoutArgument_wrong_count hp wop hd)

end Sys2Proof.Machine
end

section
/-! SUPPORT. The status of an answer by its cause (60_exceptions.md R90, R92): a selector that no row of the operation
map has, or a row and an operand count that does not fit it. -/

namespace Sys2Proof.Machine

theorem statusCode_inj {e e' : Status} : statusCode e = statusCode e' ↔ e = e' := by
  cases e <;> cases e' <;> decide

/-- A selector has at most one row, so every row is the one its OP finds (30_encoding.md R32). -/
theorem find?_opRow {row : OpRow} (h : row ∈ opRows) : opRows.find? (fun row' => row'.op == row.op) = some row :=
  (by decide : ∀ row ∈ opRows, opRows.find? (fun row' => row'.op == row.op) = some row) row h

theorem opRow_error_ne_illegalOperation {row : OpRow} (h : row ∈ opRows) : row.error ≠ .illegalOperation :=
  (by decide : ∀ row ∈ opRows, row.error ≠ .illegalOperation) row h

theorem answer_of_no_row {r : Request} (h : ∀ row ∈ opRows, r.op ≠ row.op) :
    answer r = errorResponse .illegalOperation := by
  have hnone : opRows.find? (fun row => row.op == r.op) = none :=
    List.find?_eq_none.2 fun row hrow hop => h row hrow (eq_of_beq hop).symm
  simp only [answer, hnone]
  rfl

/-- The status of a request that a row serves is the row's error exactly when the operand count does not fit. -/
theorem answer_st_of_row {r : Request} {row : OpRow} (hrow : row ∈ opRows) (hop : r.op = row.op) :
    (answer r).st = statusCode (if needFits row.need r.n then .ok else row.error) := by
  rw [answer_of_row (hop ▸ find?_opRow hrow)]
  split <;> rfl

/-- The status is IllegalOperation exactly for the selectors without a row (30_encoding.md R39). -/
theorem answer_st_illegalOperation_iff (r : Request) :
    (answer r).st = statusCode .illegalOperation ↔ ∀ row ∈ opRows, r.op ≠ row.op := by
  refine ⟨fun hst row hrow hop => ?_, fun hnone => by rw [answer_of_no_row hnone, errorResponse_st]⟩
  rw [answer_st_of_row hrow hop, statusCode_inj] at hst
  split at hst
  · cases hst
  · exact opRow_error_ne_illegalOperation hrow hst

/-- The status is one of the errors the rows name exactly for a count that does not fit the row that names it
(60_exceptions.md R90). -/
theorem answer_st_rowError_iff (r : Request) {e : Status} (hok : e ≠ .ok) (hill : e ≠ .illegalOperation) :
    (answer r).st = statusCode e ↔
      ∃ row ∈ opRows, row.error = e ∧ r.op = row.op ∧ needFits row.need r.n = false := by
  constructor
  · intro hst
    by_cases hrow : ∃ row ∈ opRows, r.op = row.op
    · obtain ⟨row, hrow, hop⟩ := hrow
      rw [answer_st_of_row hrow hop, statusCode_inj] at hst
      split at hst
      · exact absurd hst.symm hok
      · exact ⟨row, hrow, hst, hop, eq_false_of_ne_true ‹_›⟩
    · push Not at hrow
      rw [answer_of_no_row hrow, errorResponse_st, statusCode_inj] at hst
      exact absurd hst.symm hill
  · rintro ⟨row, hrow, rfl, hop, hfit⟩
    rw [answer_st_of_row hrow hop, hfit]
    rfl

/-- In IDLE a request whose answer is an error leaves the state with that answer placed in RSP; the CRC unit is not
used (60_exceptions.md R91). -/
theorem issueRequest_idle_of_st_ne_ok {r : Request} {s : State} (hw : r.wf = true) (hp : s.phase = .idle)
    (h : (answer r).st ≠ 0x00#8) : issueRequest r s = .next (answered (answer r) s) := by
  cases hd : decodeRequest r with
  | ok i =>
    obtain rfl := request_of_decodeRequest hd
    obtain ⟨u, hexec, rfl | ⟨-, -, hok⟩⟩ := exec_answers i s
    · exact ((issueRequest_ok hw hd u).trans hexec).trans (deliver_idle hp _)
    · exact absurd hok h
  | error e => rw [issueRequest_error hw hd, answer_of_decodeRequest_error hd, raise_idle hp]

/-- An error response has no result bytes (60_exceptions.md R91). -/
theorem answer_eq_of_error {r : Request} (h : (answer r).st ≠ 0x00#8) : answer r = ⟨(answer r).st, []⟩ := by
  have hm : (answer r).m = 0 := (answer_m_eq_zero_iff r).2 h
  exact congrArg (Response.mk _) (List.length_eq_zero_iff.1 hm)

end Sys2Proof.Machine
end

section
/-! PROOF. The three errors: each is raised for its cause, and it changes nothing but the handshake. -/

namespace Sys2Proof.Machine

/-- Settles O18: the response is the answer, whose status the rows of the operation map decide; the rows are gone
through by their error. -/
theorem eachErrorHasItsCause : Obligations.EachErrorHasItsCause := by
  intro r s hw hp
  obtain ⟨c, n, h⟩ := issueRequest_idle hw hp
  refine ⟨_, h, (answer_st_rowError_iff r (e := .invalidLength) nofun nofun).trans ?_,
    (answer_st_rowError_iff r (e := .malformedFloatEncoding) nofun nofun).trans ?_,
    (answer_st_illegalOperation_iff r).trans ?_⟩
  · -- Both sides name the same rows; the right one groups them by the count they need.
    simp only [opRows, List.mem_cons, List.not_mem_nil, or_false, needFits, exists_eq_or_imp, beq_eq_false_iff_ne,
      ne_eq, true_and, reduceCtorEq, decide_eq_false_iff_not, not_le, false_and, ↓existsAndEq, false_or]
    grind
  · simp [opRows, needFits]
  · simp [opRows]

/-- Settles O19: with status OK there is nothing to show; any other answer is an error with no result bytes, placed in
RSP of the old state. -/
theorem errorsChangeNothingButTheHandshake : Obligations.ErrorsChangeNothingButTheHandshake := by
  intro r s hw hp
  by_cases hok : (answer r).st = 0x00#8
  · obtain ⟨c, n, h⟩ := issueRequest_idle hw hp
    exact ⟨_, h, fun herr => absurd hok herr⟩
  · exact ⟨_, issueRequest_idle_of_st_ne_ok hw hp hok, fun _ => congrArg (answered · s) (answer_eq_of_error hok)⟩

end Sys2Proof.Machine
end

section
/-! SUPPORT. Runs: a property that no step loses and that lets every step answer a next state holds along the whole
run. Then what lets a step answer: pending items that are requests. -/

namespace Sys2Proof.Machine

/-- From every state with `P` a step answers a next state, again with `P`. -/
def StepsWithin (P : State → Prop) : Prop := ∀ s, P s → ∃ t, step s = .next t ∧ P t

theorem run_within {P : State → Prop} (hP : StepsWithin P) (k : Nat) (s : State) (hs : P s) :
    ∃ t, Host.Core.run Sys2Proof.core k s = .next t ∧ P t := by
  induction k generalizing s with
  | zero => exact ⟨s, run_zero s, hs⟩
  | succ k ih =>
    obtain ⟨t, hstep, ht⟩ := hP s hs
    rw [run_succ k hstep]
    exact ih t ht

theorem attemptIssue_nothing {s : State} (hp : s.phase = .idle) (hq : s.pending = []) : attemptIssue s = .next s := by
  simp [attemptIssue, hp, hq]

/-- An attempted issue stops only at a pending item that is no request (30_encoding.md R30; log 9). -/
theorem attemptIssue_completes {s : State} (hw : ∀ r ∈ s.pending, r.wf = true) : ∃ t, attemptIssue s = .next t := by
  cases hp : s.phase with
  | done => exact ⟨s, attemptIssue_held hp⟩
  | idle =>
    cases hq : s.pending with
    | nil => exact ⟨s, attemptIssue_nothing hp hq⟩
    | cons r rs =>
      have hr : r.wf = true := hw r (hq ▸ List.mem_cons_self)
      obtain ⟨c, n, h⟩ := issueRequest_idle (s := { s with pending := rs }) hr hp
      exact ⟨_, (attemptIssue_idle hp hq).trans h⟩

theorem attemptTake_completes (s : State) : ∃ t, attemptTake s = .next t := by
  cases hp : s.phase with
  | idle => exact ⟨s, attemptTake_held hp⟩
  | done => exact ⟨_, attemptTake_done hp⟩

/-- With only requests pending every step answers a next state (70_reset_and_hazards.md R108). -/
theorem step_completes {s : State} (hw : ∀ r ∈ s.pending, r.wf = true) : ∃ t, step s = .next t := by
  cases hm : s.moves with
  | nil => exact ⟨s, step_waiting hm⟩
  | cons m ms =>
    rw [step_move hm]
    cases m with
    | issue => exact attemptIssue_completes (s := { s with moves := ms }) hw
    | take => exact attemptTake_completes _
    | reset => exact ⟨_, rfl⟩

theorem stepsWithin_inv : StepsWithin State.Inv := by
  intro s hs
  have ⟨_, _, _, hpending⟩ := hs
  obtain ⟨t, hstep⟩ := step_completes hpending
  exact ⟨t, hstep, everyStepKeepsTheInvariant s t hstep hs⟩

/-- `t` is `s` but for the attempted moves, which are all issue. -/
def HeldIssuing (s t : State) : Prop := ∃ ms, (∀ m ∈ ms, m = .issue) ∧ t = { s with moves := ms }

/-- While a response waits each attempted issue is held (10_state.md R12). -/
theorem stepsWithin_heldIssuing {s : State} (hp : s.phase = .done) : StepsWithin (HeldIssuing s) := by
  rintro _ ⟨ms, hms, rfl⟩
  cases ms with
  | nil => exact ⟨_, step_waiting rfl, [], hms, rfl⟩
  | cons m ms =>
    obtain ⟨rfl, hrest⟩ := List.forall_mem_cons.1 hms
    obtain ⟨-, -, hissueHeld, -⟩ := handshakeAlternatesIssueAndTake
    exact ⟨_, hissueHeld { s with moves := .issue :: ms } ms rfl hp, ms, hrest, rfl⟩

end Sys2Proof.Machine
end

section
/-! PROOF. The reset event and the hazards of the handshake (70_reset_and_hazards.md): reset in any phase, a host that
does not take, and runs that never stop. -/

namespace Sys2Proof.Machine

/-- Settles O42: every step from a state with the invariant answers a next state and keeps the invariant, so every
run does. -/
theorem runsNeverStop : Obligations.RunsNeverStop := by
  intro s hs k
  obtain ⟨t, hrun, -⟩ := run_within stepsWithin_inv k s hs
  exact ⟨t, hrun⟩

/-- Settles O2: the step is the reset event, which leaves the block idle, so any request issued there is answered. -/
theorem resetEventReturnsBlockToIdle : Obligations.ResetEventReturnsBlockToIdle := by
  intro s ms hm
  refine ⟨_, _, step_move hm, fun r hw => ?_⟩
  obtain ⟨c, n, h⟩ := issueRequest_idle (s := blockReset { s with moves := ms }) hw rfl
  exact ⟨_, c, n, h, rfl⟩

/-- Settles O4: each step of the run only takes a held issue off the list of moves. -/
theorem hostThatDoesNotTakeIsHeldForever : Obligations.HostThatDoesNotTakeIsHeldForever := by
  intro k s hp hmoves
  obtain ⟨t, hrun, ms, -, rfl⟩ := run_within (stepsWithin_heldIssuing hp) k s ⟨s.moves, hmoves, rfl⟩
  exact ⟨ms, hrun⟩

end Sys2Proof.Machine
end
